-- ==== Sys2Proof/Word.lean ====
section
/-! DEFINITION. The widths of the block: words, bytes, counters (R7, R8, R34). -/

namespace Sys2Proof

/-- One frame word, header or payload: 32 bits (R7 `WORD`, R70). -/
abbrev Word := BitVec 32

/-- One byte of the transport stream; only the adapter of R71 handles bytes. -/
abbrev Byte := BitVec 8

/-- A counter: 64 bits, wrapping (R7 `CTR_BITS`, R34, R49). -/
abbrev Counter := BitVec 64

end Sys2Proof
end

