-- ==== Sys2Proof/Config.lean ====
section
/-! DEFINITION. The implementation parameters of R7, and the one free value. -/

namespace Sys2Proof

/-- `BYTE_ORDER` (R7, R71): how the transport adapter assembles a word from four bytes. -/
inductive ByteOrder where
  | little
  | big
deriving DecidableEq, Repr

/-- The open parameters of R7. A machine has one value of them for its whole life: they stand in the
state and no step writes them, so a statement about every state holds for every choice (log 1). -/
structure Params where
  /-- `TYPE_SUPER`, the type code of SuperFrame (R101). -/
  typeSuper : BitVec 8
  /-- `TYPE_STACKERR`, the type code of StackError (R101). -/
  typeStackErr : BitVec 8
  /-- `BYTE_ORDER` (R71). -/
  byteOrder : ByteOrder
  /-- `SCRATCH_WORDS`, capacity of the scratch buffer (R29). -/
  scratchWords : Nat
  /-- `MAX_MODULES`, modules per event (R22). -/
  maxModules : Nat
  /-- `CMD_FIFO_WORDS`, capacity of the command FIFO (R46). -/
  cmdFifoWords : Nat
  /-- `RESP_MAX_WORDS`, largest reply payload (R45). -/
  respMaxWords : Nat
deriving DecidableEq, Repr

/-- The constraints R7 and R101 put on the parameters: the six type codes are distinct, the FIFO
holds any single frame, and the other capacities are at least 1. -/
def Params.legal (p : Params) : Bool :=
  p.typeSuper != p.typeStackErr &&
  p.typeSuper != 0xF3#8 && p.typeSuper != 0xF5#8 && p.typeSuper != 0xF9#8 && p.typeSuper != 0xFA#8 &&
  p.typeStackErr != 0xF3#8 && p.typeStackErr != 0xF5#8 && p.typeStackErr != 0xF9#8 &&
  p.typeStackErr != 0xFA#8 &&
  decide (1 ≤ p.scratchWords) && decide (1 ≤ p.maxModules) &&
  decide (8192 ≤ p.cmdFifoWords) && decide (1 ≤ p.respMaxWords)

/-- The parameters at `State.reset`: the suggested type codes and byte order of R7 (PRESUMED, log 1
and 3; unsafe), and capacities the model picks, since R7 leaves them open (DESIGN CHOICE, log 2; unsafe). -/
def Params.suggested : Params where
  typeSuper := 0xF1
  typeStackErr := 0xF7
  byteOrder := .little
  scratchWords := 65536
  maxModules := 64
  cmdFifoWords := 8192
  respMaxWords := 8191

/-- `N_ERR_STACKS` (R7): the stacks counted by the stack-error counters. -/
def numErrStacks : Nat := 8

/-- The largest number of events of a readout structure (R7 `N_EVENTS`, R22). -/
def maxEvents : Nat := 15

/-- `frameMaxWords` of the generator lies between these bounds (R7, R360). -/
def frameMaxLow : Nat := 2
/-- See `frameMaxLow`. -/
def frameMaxHigh : Nat := 8191

/-- FREE VALUE: what the scratch word at an address holds that nothing has written since the last
reset or clear (U1: `any value`; log 13). No body: no proof can know a value of it. -/
opaque Config.unwrittenScratch : Nat → Word

end Sys2Proof
end

