-- ==== Sys2Proof/Syntax.lean ====
section
/-! DEFINITION. The operands and the instructions: one constructor per row of the opcode table. -/

namespace Sys2Proof

/-- One row of the readout structure: `(prefixLen, suffixLen, hasDynamic)` (R22). -/
structure ModuleShape where
  prefixLen : BitVec 8
  suffixLen : BitVec 8
  hasDynamic : Bool
deriving DecidableEq, Repr

/-- The readout structure: for each event its modules, in order (R22, R163). -/
abbrev ReadoutStructure := List (List ModuleShape)

/-- A command of a module program, as the builder sees it (R160). -/
inductive Command where
  | vmeRead
  | vmeBlockRead
  | writeMarker
  | writeSpecial
  | custom (n : Nat)
  | setAccu
  | other
deriving DecidableEq, Repr

/-- The builder's input: per event the modules, per module the commands (R160). -/
abbrev Programs := List (List (List Command))

/-- One module handed to the frame generator (R360). `dynamicWords = none` is a module without a
dynamic part; `some []` is a dynamic part that is empty. -/
structure GenModule where
  prefixWords : List Word
  dynamicWords : Option (List Word)
  suffixWords : List Word
deriving DecidableEq, Repr

/-- The instructions: the header words of R100, R107 to R109, and the operations of the block's agents.
The widths of the operands are those of the spec; `encode_header` and `encode_sysevent_header` take
arguments of any width, since R141 masks them. -/
inductive Instr where
  /-- StackFrame header, type 0xF3. -/
  | stack (flags : BitVec 4) (stackNum : BitVec 4) (ctrlId : BitVec 3) (length : BitVec 13)
  /-- StackContinuation header, type 0xF9. -/
  | cont (flags : BitVec 4) (stackNum : BitVec 4) (ctrlId : BitVec 3) (length : BitVec 13)
  /-- BlockRead header, type 0xF5. -/
  | block (flags : BitVec 4) (stackNum : BitVec 4) (ctrlId : BitVec 3) (length : BitVec 13)
  /-- SuperFrame header, type `TYPE_SUPER`. -/
  | super (flags : BitVec 4) (stackNum : BitVec 4) (ctrlId : BitVec 3) (length : BitVec 13)
  /-- StackError header, type `TYPE_STACKERR`. -/
  | stkerr (flags : BitVec 4) (stackNum : BitVec 4) (ctrlId : BitVec 3) (length : BitVec 13)
  /-- SystemEvent section header, type 0xFA (R107). -/
  | sysev (continueBit : BitVec 1) (ctrlId : BitVec 3) (subtype : BitVec 7) (length : BitVec 13)
  /-- First word of an ETH packet (R108). -/
  | eth0 (packetChannel : BitVec 4) (packetNumber : BitVec 12) (ignored : BitVec 3) (numDataWords : BitVec 13)
  /-- Second word of an ETH packet (R109). -/
  | eth1 (timestamp : BitVec 20) (headerPointer : BitVec 12)
  | decodeHeader (w : Word)
  | encodeHeader (type flags id length : Nat)
  | isGoodHeader (w : Word)
  | frameKind (type : BitVec 8)
  | decodeSyseventHeader (w : Word)
  | encodeSyseventHeader (continueBit ctrlId subtype length : Nat)
  | hasContinue (w : Word)
  | decodeEthHeader (w0 w1 : Word)
  | buildReadoutStructure (programs : Programs)
  | sessionReset (rs : ReadoutStructure)
  | parseUsbBuffer (bufferNumber : BitVec 32) (words : List Word)
  | parseEthBuffer (bufferNumber : BitVec 32) (words : List Word)
  | endOfStream
  | readParserCounters
  | engineConstruct
  | submitSuperTransaction (ref : BitVec 16) (words : List Word)
  | submitStackTransaction (ref : BitVec 32) (words : List Word)
  | rxWords (ws : List Word)
  | readerStep
  | rxTimeout
  | rxDisconnect
  | requestStop
  | clearStackErrorCounters
  | readEngineCounters
  | generateEvent (ev : BitVec 4) (ctrlId : BitVec 3) (mods : List GenModule) (frameMax : BitVec 13)
  | generateSystemEvent (hdr : Word) (pay : List Word) (frameMax : BitVec 13)
deriving DecidableEq, Repr

end Sys2Proof
end

