-- ==== Sys2Proof/WellFormed.lean ====
section
/-! DEFINITION. The ranges the rules give operands beyond their widths. -/

namespace Sys2Proof

/-- A legal readout structure (R163): at most 15 events, each of at most `MAX_MODULES` modules.
The 8-bit widths of R22 are in the type. -/
def ReadoutStructure.legal (p : Params) (rs : ReadoutStructure) : Bool :=
  decide (rs.length ≤ maxEvents) && rs.all (fun mods => decide (mods.length ≤ p.maxModules))

/-- A frame limit the generator takes (R7, R360: `2 ≤ M ≤ 8191`). -/
def frameMaxLegal (m : BitVec 13) : Bool :=
  decide (frameMaxLow ≤ m.toNat) && decide (m.toNat ≤ frameMaxHigh)

/-- An instruction whose operands lie in the ranges the rules give: a delivery has at least one word
(R307), a session is reset with a legal table (R450), the generator's event is 0 to 14 and its frame
limit at least 2 (R360). Every field of every header word is defined for every value (R112). -/
def wellFormed (p : Params) : Instr → Bool
  | .stack _ _ _ _ => true
  | .cont _ _ _ _ => true
  | .block _ _ _ _ => true
  | .super _ _ _ _ => true
  | .stkerr _ _ _ _ => true
  | .sysev _ _ _ _ => true
  | .eth0 _ _ _ _ => true
  | .eth1 _ _ => true
  | .decodeHeader _ => true
  | .encodeHeader _ _ _ _ => true
  | .isGoodHeader _ => true
  | .frameKind _ => true
  | .decodeSyseventHeader _ => true
  | .encodeSyseventHeader _ _ _ _ => true
  | .hasContinue _ => true
  | .decodeEthHeader _ _ => true
  | .buildReadoutStructure _ => true
  | .sessionReset rs => ReadoutStructure.legal p rs
  | .parseUsbBuffer _ _ => true
  | .parseEthBuffer _ _ => true
  | .endOfStream => true
  | .readParserCounters => true
  | .engineConstruct => true
  | .submitSuperTransaction _ _ => true
  | .submitStackTransaction _ _ => true
  | .rxWords ws => !ws.isEmpty
  | .readerStep => true
  | .rxTimeout => true
  | .rxDisconnect => true
  | .requestStop => true
  | .clearStackErrorCounters => true
  | .readEngineCounters => true
  | .generateEvent ev _ _ m => decide (ev.toNat < maxEvents) && frameMaxLegal m
  | .generateSystemEvent _ _ m => frameMaxLegal m

end Sys2Proof
end

