-- ==== Sys2Proof/Decode.lean ====
section
/-! DEFINITION. The frame codec (R140 to R149), the decoder of header words, and the encoder. -/

namespace Sys2Proof

/-! ## Fields of a word (R8, R100, R107 to R109) -/

/-- The field of `width` bits of `w` whose lowest bit is bit `lo` (R8: `v[hi:lo]`). -/
def field (w : Word) (lo width : Nat) : BitVec width := w.extractLsb' lo width

/-- Bits 31:24, the type byte (R100). -/
def typeOf (w : Word) : BitVec 8 := field w 24 8
/-- Bits 23:20, `frameFlags` (R100). -/
def flagsOf (w : Word) : BitVec 4 := field w 20 4
/-- Bits 19:13, the 7-bit `id` (R103). -/
def idOf (w : Word) : BitVec 7 := field w 13 7
/-- Bits 19:16, `stackNum` (R103). -/
def stackNumOf (w : Word) : BitVec 4 := field w 16 4
/-- Bits 15:13, `ctrlId` (R103). -/
def ctrlIdOf (w : Word) : BitVec 3 := field w 13 3
/-- Bits 12:0, `length` (R104). -/
def lengthOf (w : Word) : BitVec 13 := field w 0 13
/-- The payload word count as a number (R104). -/
def payloadWords (w : Word) : Nat := (lengthOf w).toNat

/-! ## Frame kinds (R101, R143) -/

/-- The names of R143. -/
inductive FrameKind where
  | superFrame
  | stackFrame
  | blockRead
  | stackError
  | stackContinuation
  | systemEvent
  | notRecognized
deriving DecidableEq, Repr

/-- `frame_kind` (R143), the tests in the order of its pseudocode. -/
def frameKind (p : Params) (t : BitVec 8) : FrameKind :=
  if t = p.typeSuper then .superFrame
  else if t = 0xF3#8 then .stackFrame
  else if t = 0xF5#8 then .blockRead
  else if t = p.typeStackErr then .stackError
  else if t = 0xF9#8 then .stackContinuation
  else if t = 0xFA#8 then .systemEvent
  else .notRecognized

/-- `is_good_header` (R142). -/
def isGoodHeader (p : Params) (w : Word) : Bool :=
  typeOf w == p.typeSuper || typeOf w == 0xF3#8 || typeOf w == p.typeStackErr

/-- `has_continue` (R147): bit 23, of generic and SystemEvent headers alike. -/
def hasContinue (w : Word) : Bool := field w 23 1 == 1#1

/-! ## Headers as records -/

/-- The result of `decode_header` (R140). -/
structure Header where
  type : BitVec 8
  flags : BitVec 4
  id : BitVec 7
  length : BitVec 13
  kind : FrameKind
deriving DecidableEq, Repr

/-- `decode_header` (R140). -/
def decodeHeader (p : Params) (w : Word) : Header where
  type := typeOf w
  flags := flagsOf w
  id := idOf w
  length := lengthOf w
  kind := frameKind p (typeOf w)

/-- Put the four fields of R100 side by side, `type` highest. -/
def packHeader (type : BitVec 8) (flags : BitVec 4) (id : BitVec 7) (length : BitVec 13) : Word :=
  type ++ flags ++ id ++ length

/-- `encode_header` (R141): each argument masked to its field's width, then packed. -/
def encodeHeader (type flags id length : Nat) : Word :=
  packHeader (BitVec.ofNat 8 type) (BitVec.ofNat 4 flags) (BitVec.ofNat 7 id) (BitVec.ofNat 13 length)

/-- The result of `decode_sysevent_header` (R145). -/
structure SysEventHeader where
  continueBit : BitVec 1
  ctrlId : BitVec 3
  subtype : BitVec 7
  length : BitVec 13
deriving DecidableEq, Repr

/-- `decode_sysevent_header` (R145); the type byte is not examined. -/
def decodeSysEventHeader (w : Word) : SysEventHeader where
  continueBit := field w 23 1
  ctrlId := field w 20 3
  subtype := field w 13 7
  length := lengthOf w

/-- Put the fields of R107 side by side, the type byte 0xFA highest. -/
def packSysEventHeader (continueBit : BitVec 1) (ctrlId : BitVec 3) (subtype : BitVec 7)
    (length : BitVec 13) : Word :=
  0xFA#8 ++ continueBit ++ ctrlId ++ subtype ++ length

/-- `encode_sysevent_header` (R146): each argument masked to its field's width. -/
def encodeSysEventHeader (continueBit ctrlId subtype length : Nat) : Word :=
  packSysEventHeader (BitVec.ofNat 1 continueBit) (BitVec.ofNat 3 ctrlId) (BitVec.ofNat 7 subtype)
    (BitVec.ofNat 13 length)

/-- The result of `decode_eth_header` (R148). -/
structure EthHeader where
  packetChannel : BitVec 4
  packetNumber : BitVec 12
  numDataWords : BitVec 13
  timestamp : BitVec 20
  headerPointer : BitVec 12
deriving DecidableEq, Repr

/-- `decode_eth_header` (R148); bits 15:13 of the first word are not decoded. -/
def decodeEthHeader (w0 w1 : Word) : EthHeader where
  packetChannel := field w0 28 4
  packetNumber := field w0 16 12
  numDataWords := field w0 0 13
  timestamp := field w1 12 20
  headerPointer := field w1 0 12

/-- The first ETH header word from its fields (R108). -/
def packEth0 (packetChannel : BitVec 4) (packetNumber : BitVec 12) (ignored : BitVec 3)
    (numDataWords : BitVec 13) : Word :=
  packetChannel ++ packetNumber ++ ignored ++ numDataWords

/-- The second ETH header word from its fields (R109). -/
def packEth1 (timestamp : BitVec 20) (headerPointer : BitVec 12) : Word :=
  timestamp ++ headerPointer

/-! ## The decoder of header words -/

/-- What selects the format of a word: a frame header stands where a frame is read; the two words of an
ETH packet header are selected by their position in the buffer, not by a bit pattern (R108, R110). -/
inductive Position where
  | frame
  | ethWord0
  | ethWord1
deriving DecidableEq, Repr

/-- Why bytes are no header word. -/
inductive DecodeError where
  /-- The type byte is none of the six codes of R101: "not a recognized type" (R111). -/
  | notRecognizedType (t : BitVec 8)
  /-- Fewer than four bytes: the adapter holds a partial word itself (R71). -/
  | partialWord
deriving DecidableEq, Repr

/-- The frame header word `w` as an instruction (R100, R107, R143); total, and refused by name where the
type is not recognised (R111). -/
def decodeFrameWord (p : Params) (w : Word) : Except DecodeError Instr :=
  match frameKind p (typeOf w) with
  | .superFrame => .ok (.super (flagsOf w) (stackNumOf w) (ctrlIdOf w) (lengthOf w))
  | .stackFrame => .ok (.stack (flagsOf w) (stackNumOf w) (ctrlIdOf w) (lengthOf w))
  | .blockRead => .ok (.block (flagsOf w) (stackNumOf w) (ctrlIdOf w) (lengthOf w))
  | .stackError => .ok (.stkerr (flagsOf w) (stackNumOf w) (ctrlIdOf w) (lengthOf w))
  | .stackContinuation => .ok (.cont (flagsOf w) (stackNumOf w) (ctrlIdOf w) (lengthOf w))
  | .systemEvent => .ok (.sysev (field w 23 1) (field w 20 3) (field w 13 7) (lengthOf w))
  | .notRecognized => .error (.notRecognizedType (typeOf w))

/-- The header word `w` at a position, as an instruction. -/
def decodeAt (p : Params) (pos : Position) (w : Word) : Except DecodeError Instr :=
  match pos with
  | .frame => decodeFrameWord p w
  | .ethWord0 => .ok (.eth0 (field w 28 4) (field w 16 12) (field w 13 3) (field w 0 13))
  | .ethWord1 => .ok (.eth1 (field w 12 20) (field w 0 12))

/-! ## Bytes (R71): the transport adapter's assembly of words -/

/-- Four bytes in arrival order as a word (R71). -/
def wordOfBytes (o : ByteOrder) (b0 b1 b2 b3 : Byte) : Word :=
  match o with
  | .little => b3 ++ b2 ++ b1 ++ b0
  | .big => b0 ++ b1 ++ b2 ++ b3

/-- A word as the four bytes of the transport, first byte first (R71, R325). -/
def bytesOfWord (o : ByteOrder) (w : Word) : List Byte :=
  match o with
  | .little => [field w 0 8, field w 8 8, field w 16 8, field w 24 8]
  | .big => [field w 24 8, field w 16 8, field w 8 8, field w 0 8]

/-- The whole words of a byte stream, and the partial trailing word the adapter keeps (R71). -/
def wordsOfBytes (o : ByteOrder) : List Byte → List Word × List Byte
  | b0 :: b1 :: b2 :: b3 :: rest =>
    let r := wordsOfBytes o rest
    (wordOfBytes o b0 b1 b2 b3 :: r.1, r.2)
  | bs => ([], bs)

/-- Decode one header word from a byte stream: total on any bytes; the rest of the stream is returned. -/
def decodeBytes (p : Params) (pos : Position) (bs : List Byte) : Except DecodeError (Instr × List Byte) :=
  match bs with
  | b0 :: b1 :: b2 :: b3 :: rest =>
    match decodeAt p pos (wordOfBytes p.byteOrder b0 b1 b2 b3) with
    | .ok i => .ok (i, rest)
    | .error e => .error e
  | _ => .error .partialWord

/-! ## The encoder -/

/-- The header word of an instruction (R100, R107 to R109). An operation has no encoding in the spec: it
is issued by an agent, not read from a stream (log 10). -/
def encode (p : Params) : Instr → Option Word
  | .stack f s c l => some (packHeader 0xF3#8 f (s ++ c) l)
  | .cont f s c l => some (packHeader 0xF9#8 f (s ++ c) l)
  | .block f s c l => some (packHeader 0xF5#8 f (s ++ c) l)
  | .super f s c l => some (packHeader p.typeSuper f (s ++ c) l)
  | .stkerr f s c l => some (packHeader p.typeStackErr f (s ++ c) l)
  | .sysev c k t l => some (packSysEventHeader c k t l)
  | .eth0 c n g d => some (packEth0 c n g d)
  | .eth1 t h => some (packEth1 t h)
  | .decodeHeader _ => none
  | .encodeHeader _ _ _ _ => none
  | .isGoodHeader _ => none
  | .frameKind _ => none
  | .decodeSyseventHeader _ => none
  | .encodeSyseventHeader _ _ _ _ => none
  | .hasContinue _ => none
  | .decodeEthHeader _ _ => none
  | .buildReadoutStructure _ => none
  | .sessionReset _ => none
  | .parseUsbBuffer _ _ => none
  | .parseEthBuffer _ _ => none
  | .endOfStream => none
  | .readParserCounters => none
  | .engineConstruct => none
  | .submitSuperTransaction _ _ => none
  | .submitStackTransaction _ _ => none
  | .rxWords _ => none
  | .readerStep => none
  | .rxTimeout => none
  | .rxDisconnect => none
  | .requestStop => none
  | .clearStackErrorCounters => none
  | .readEngineCounters => none
  | .generateEvent _ _ _ _ => none
  | .generateSystemEvent _ _ _ => none

/-- The position at which an instruction's header word is read. -/
def positionOf : Instr → Position
  | .eth0 _ _ _ _ => .ethWord0
  | .eth1 _ _ => .ethWord1
  | _ => .frame

/-- The bytes of an instruction's header word, in transport order. -/
def encodeBytes (p : Params) (i : Instr) : Option (List Byte) :=
  (encode p i).map (bytesOfWord p.byteOrder)

/-! ## The host's question -/

/-- The word of a table row: the low `nbits` bits of `w`, the rest 0. -/
def tableWord (nbits w : Nat) : Word := BitVec.ofNat 32 (w % 2 ^ nbits)

/-- What the decoder reads from a table word laid out as bytes, at a frame position, with the suggested
type codes. The two ETH words have no bit pattern and are not read here (R108, log 10). -/
def decodeTableWord (nbits w : Nat) : Option Instr :=
  match decodeBytes Params.suggested .frame
      (bytesOfWord Params.suggested.byteOrder (tableWord nbits w)) with
  | .ok (i, _) => some i
  | .error _ => none

end Sys2Proof
end

