-- ==== Sys2Proof/Machine/State.lean ====
section
/-! DEFINITION. The state of the block (10_state.md), its stops, and its reset (R450, R451). -/

namespace Sys2Proof.Machine

/-- No operation of the block stops the machine with a fault: parse errors and "internal faults" are
outcomes the parser recovers from (R402, R403), and no word makes the reader fault (R330; log 23).
So this type has no constructor. -/
inductive Fault where
deriving DecidableEq, Repr

/-- Why an instruction or a step has no next state. -/
inductive Refusal where
  /-- Raised by an arm of `exec` whose instruction has no meaning yet. Safe. -/
  | notModelled (mnemonic : String)
  /-- Raised by the parser's operations while a parse call is open: an overlapping access is outside the
  domain (R455, U6; log 17). Safe. -/
  | overlapsParseCall
  /-- Raised by the parse operations where no session has been reset: they "are not available" (R450,
  V19; log 4). Safe. -/
  | noSession
  /-- Raised by an operation whose operand lies outside the range its rule gives (R307, R360, R450;
  log 20). Safe. -/
  | operandOutOfRange
  /-- Raised by a header word executed where it does not stand: an ETH word that is not the next word of a
  packet header, a frame header that is neither the next word of the open unit nor, with no call open, the
  head of the command FIFO (R108, R110; log 12). The step never raises it for a word it fetched. Safe. -/
  | notAtThisPosition
deriving DecidableEq, Repr

/-! ## Tables -/

/-- A table of sparse data: key and value pairs in one canonical form (`Sparse.wf`, log 14). -/
abbrev Sparse (α : Type) := List (Nat × α)

/-! ## The frame parser -/

/-- `P.phase` (R25). -/
inductive Phase where
  | prefixPhase
  | dynamicPhase
  | suffixPhase
deriving DecidableEq, Repr

/-- A frame cursor: the originating header and the words left (R26, R27). -/
structure Cursor where
  hdr : Word
  left : BitVec 13
deriving DecidableEq, Repr

/-- The cursor `(0, 0)`: no frame is open (R26, R27). -/
def Cursor.closed : Cursor := ⟨0, 0⟩

/-- An `(off, size)` pair into the scratch buffer (R28). -/
structure Extent where
  off : Nat
  size : Nat
deriving DecidableEq, Repr

/-- `P.spans[m]`: the three pairs of a module (R28). -/
structure Span where
  prefixSpan : Extent
  dynamicSpan : Extent
  suffixSpan : Extent
deriving DecidableEq, Repr

/-- All three pairs `(0, 0)` (R28). -/
def Span.zero : Span := ⟨⟨0, 0⟩, ⟨0, 0⟩, ⟨0, 0⟩⟩

/-- The parse outcomes (R400). -/
inductive ParseOutcome where
  | ok
  | needMoreInput
  | noStackFrameFound
  | unexpectedFrameType
  | stackIndexOutOfRange
  | stackIndexChanged
  | emptyStackFrame
  | unexpectedNonEmptyStackFrame
  | unexpectedOpenBlockOnNewEvent
  | bufferNotAdvancing
  | truncatedInput
  | unhandledException
  | systemEventDropped
deriving DecidableEq, Repr

/-- The code of an outcome (R400). -/
def ParseOutcome.code : ParseOutcome → Nat
  | .ok => 0
  | .needMoreInput => 1
  | .noStackFrameFound => 2
  | .unexpectedFrameType => 3
  | .stackIndexOutOfRange => 4
  | .stackIndexChanged => 5
  | .emptyStackFrame => 6
  | .unexpectedNonEmptyStackFrame => 7
  | .unexpectedOpenBlockOnNewEvent => 8
  | .bufferNotAdvancing => 9
  | .truncatedInput => 10
  | .unhandledException => 11
  | .systemEventDropped => 12

/-- `P.parseResults`: one counter for each outcome (R34, R191). -/
structure ParseResults where
  ok : Counter
  needMoreInput : Counter
  noStackFrameFound : Counter
  unexpectedFrameType : Counter
  stackIndexOutOfRange : Counter
  stackIndexChanged : Counter
  emptyStackFrame : Counter
  unexpectedNonEmptyStackFrame : Counter
  unexpectedOpenBlockOnNewEvent : Counter
  bufferNotAdvancing : Counter
  truncatedInput : Counter
  unhandledException : Counter
  systemEventDropped : Counter
deriving DecidableEq, Repr

/-- The statistics of one (event, module) pair: `eventHits`, `sizeMin`, `sizeMax`, `sizeSum` (R34). -/
structure ModuleStats where
  hits : Counter
  sizeMin : Counter
  sizeMax : Counter
  sizeSum : Counter
deriving DecidableEq, Repr

/-- Reset value of the statistics: the minimum starts at 2^64 - 1 (R34, R450). -/
def ModuleStats.zero : ModuleStats := ⟨0, BitVec.allOnes 64, 0, 0⟩

/-- `ReadoutParserCounters` (R34). -/
structure ParserCounters where
  bufferLoss : Counter
  ethPacketLoss : Counter
  bytesProcessed : Counter
  unusedBytes : Counter
  exceptionCount : Counter
  parseResults : ParseResults
  /-- `eventHits`, `sizeMin`, `sizeMax`, `sizeSum` by `statKey`. -/
  moduleStats : Sparse ModuleStats
deriving DecidableEq, Repr

/-- One module of an `EventData` emission (R77, R258). -/
structure ModuleData where
  data : List Word
  size : Nat
  prefixSize : Nat
  dynamicSize : Nat
  suffixSize : Nat
deriving DecidableEq, Repr

/-- A recorded output of the parser's two ports (R77; log 9). -/
inductive Emission where
  | eventData (event : Int) (modules : List ModuleData)
  | systemEvent (words : List Word)
deriving DecidableEq, Repr

/-- Where the call in progress stands in its buffer (R180, R185; log 11). The lists are the words of an
ETH buffer not yet walked. -/
inductive CallStage where
  /-- No parse call is running. -/
  | noCall
  /-- A USB buffer is walked as one unit. -/
  | usbUnit
  /-- The data words of a packet are walked; `rest` follows the packet. -/
  | ethUnit (rest : List Word)
  /-- The next word, the first of `rest`, is word 0 of a packet header. -/
  | ethHeader0 (rest : List Word)
  /-- Word 0 of a packet header was `w0`; the next word, the first of `rest`, is word 1. -/
  | ethHeader1 (w0 : Word) (rest : List Word)
deriving DecidableEq, Repr

/-- What lives only while a parse call runs (R21, R33). -/
structure CallState where
  stage : CallStage
  /-- The current input unit `U` (R75). -/
  unit : List Word
  /-- The read position (R21). -/
  rp : Nat
  /-- The first error-class outcome of the call (R33). -/
  callFirst : Option ParseOutcome
  /-- The first error outcome of the unit (R33). -/
  unitFirst : Option ParseOutcome
  unitStartedIdle : Bool
  unitTook : Bool
  unitSkipped : Bool
  /-- An outcome was raised in this iteration (R240). -/
  raised : Bool
deriving DecidableEq, Repr

/-- No call: the bookkeeping at its inert values. -/
def CallState.idle : CallState where
  stage := .noCall
  unit := []
  rp := 0
  callFirst := none
  unitFirst := none
  unitStartedIdle := false
  unitTook := false
  unitSkipped := false
  raised := false

/-- The frame parser's registers (R22 to R34), its call in progress, and the record of its ports. -/
structure Parser where
  /-- A session exists (R450). -/
  session : Bool
  /-- `P.RS` (R22). -/
  rs : ReadoutStructure
  /-- `P.eventIndex`, -1 in Idle (R23). -/
  eventIndex : Int
  /-- `P.moduleIndex`, -1 in Idle (R24). -/
  moduleIndex : Int
  phase : Phase
  /-- `P.stackF` (R26). -/
  stackF : Cursor
  /-- `P.blockF` (R27). -/
  blockF : Cursor
  /-- `P.spans` by module index; a module not listed has every pair `(0, 0)` (R28). -/
  spans : Sparse Span
  /-- `P.scratch` by word address (R29, R73). -/
  scratch : Sparse Word
  /-- `P.used` (R29). -/
  used : Nat
  lastBufferNumber : BitVec 32
  bufSeqValid : Bool
  lastPacketNumber : BitVec 12
  pktSeqValid : Bool
  counters : ParserCounters
  call : CallState
  /-- The record of emissions, oldest first (R77, R80; log 9). -/
  emitted : List Emission
deriving DecidableEq, Repr

/-! ## The transaction correlator -/

/-- `ErrorKind` (R407). -/
inductive ErrorKind where
  | referenceMismatch
  | disconnected
  | writeFailed
  | protocolError
deriving DecidableEq, Repr

/-- The code of an error kind (R407). -/
def ErrorKind.code : ErrorKind → Nat
  | .referenceMismatch => 1
  | .disconnected => 2
  | .writeFailed => 3
  | .protocolError => 4

/-- A transaction's result: `Ok(words)` or `Err(kind)` (R45, R301). -/
inductive TxResult where
  | ok (words : List Word)
  | err (kind : ErrorKind)
deriving DecidableEq, Repr

/-- `T.slot[k]` with a reference of `w` bits: 16 for Super, 32 for Stack (R45). -/
inductive Slot (w : Nat) where
  | free
  | pending (ref : BitVec w)
  | fulfilled (result : TxResult)
deriving DecidableEq, Repr

/-- The correlator counters (R49). -/
structure EngineCounters where
  skippedWords : Counter
  readTimeouts : Counter
  superRefMismatches : Counter
  stackRefMismatches : Counter
  unexpectedSuperFrames : Counter
  unexpectedStackFrames : Counter
  stackChainBroken : Counter
deriving DecidableEq, Repr

/-- `T.SE`, the stack-error counters (R50). -/
structure StackErrorCounters where
  /-- `hist[s][(errorLine, frameFlags)]` by `histKey`. -/
  hist : Sparse Counter
  nonErrorFrames : Counter
deriving DecidableEq, Repr

/-- The correlator's registers (R45 to R50). -/
structure Engine where
  slotSuper : Slot 16
  slotStack : Slot 32
  /-- `T.F`, head first (R46). -/
  fifo : List Word
  collecting : Bool
  chainStack : BitVec 4
  chainWords : List Word
  chainOverflow : Bool
  chainBroken : Bool
  running : Bool
  stopReq : Bool
  counters : EngineCounters
  stackErrors : StackErrorCounters
deriving DecidableEq, Repr

/-! ## Callers -/

/-- `c.kind` with `c.ref` (R51): 16 bits for Super, 32 for Stack. -/
inductive Request where
  | super (ref : BitVec 16)
  | stack (ref : BitVec 32)
deriving DecidableEq, Repr

/-- `c.step` (R51), with `c.result` at Done. -/
inductive CallerStep where
  | start
  | waitSlot
  | writing
  | waitDone
  | done (result : TxResult)
deriving DecidableEq, Repr

/-- A caller agent (R51). -/
structure Caller where
  request : Request
  words : List Word
  step : CallerStep
deriving DecidableEq, Repr

/-- An engine that stands beside the one the host works with, with the callers that submitted to it (R414;
log 19). -/
structure Correlator where
  engine : Engine
  callers : List Caller
deriving DecidableEq, Repr

/-- A transport write of R303 and its outcome (log 9). -/
structure WriteRecord where
  words : List Word
  ok : Bool
deriving DecidableEq, Repr

/-! ## Results and the schedule (the model's own fields) -/

/-- The value an operation returns to its caller (log 8). -/
inductive OpResult where
  | nothing
  | header (h : Header)
  | word (w : Word)
  | bool (b : Bool)
  | kind (k : FrameKind)
  | sysEvent (h : SysEventHeader)
  | eth (h : EthHeader)
  | table (rs : ReadoutStructure)
  /-- `BuildError(e, m)` (R161). -/
  | buildError (event : Nat) (module : Int)
  | outcome (o : ParseOutcome)
  | parserCounters (c : ParserCounters)
  | engineCounters (c : EngineCounters) (se : StackErrorCounters)
  /-- The caller agent a submission started: its index in `State.callers` (R301). -/
  | caller (c : Nat)
  | words (ws : List Word)
deriving DecidableEq, Repr

/-- A transition the environment takes next (R300, R410; log 6). -/
inductive Event where
  /-- An agent issues an operation. -/
  | op (i : Instr)
  /-- Caller `c` takes its next step; `writeOk` is the outcome of the transport write, should this be
  its Writing step (R303, U9). -/
  | caller (c : Nat) (writeOk : Bool)
  /-- The transitions from here on are those of the `k`-th other engine and its callers (R414; log 19). -/
  | turnToEngine (k : Nat)
  /-- The parse operations from here on are those of the `k`-th other session (R414; log 24). -/
  | turnToSession (k : Nat)
  /-- The feeder begins `parse_usb_buffer`; the call is then run one word a step (log 11). -/
  | feedUsb (bufferNumber : BitVec 32) (words : List Word)
  /-- The feeder begins `parse_eth_buffer`; the call is then run one word a step (log 11). -/
  | feedEth (bufferNumber : BitVec 32) (words : List Word)
deriving DecidableEq, Repr

/-- The whole machine. -/
structure State where
  /-- The implementation parameters; no step writes them (R7; log 1). -/
  params : Params
  parser : Parser
  /-- The other sessions, the latest replaced one first (R414, R450; log 24). -/
  otherSessions : List Parser
  engine : Engine
  /-- The callers by index (R51). -/
  callers : List Caller
  /-- The other engines with their callers, the latest replaced one first (R414, R451; log 19). -/
  otherEngines : List Correlator
  /-- The record of transport writes, oldest first (R303; log 9). -/
  written : List WriteRecord
  result : OpResult
  schedule : List Event
deriving DecidableEq, Repr

/-! ## Reset -/

/-- Every parse result 0 (R450). -/
def ParseResults.zero : ParseResults := ⟨0, 0, 0, 0, 0, 0, 0, 0, 0, 0, 0, 0, 0⟩

/-- The parser counters after a session reset (R450). -/
def ParserCounters.zero : ParserCounters := ⟨0, 0, 0, 0, 0, ParseResults.zero, []⟩

/-- The parser's registers as R450 sets them, for the table `rs`; nothing is emitted yet. -/
def Parser.afterReset (session : Bool) (rs : ReadoutStructure) : Parser where
  session := session
  rs := rs
  eventIndex := -1
  moduleIndex := -1
  phase := .prefixPhase
  stackF := .closed
  blockF := .closed
  spans := []
  scratch := []
  used := 0
  lastBufferNumber := 0
  bufSeqValid := false
  lastPacketNumber := 0
  pktSeqValid := false
  counters := .zero
  call := .idle
  emitted := []

/-- Every correlator counter 0 (R451). -/
def EngineCounters.zero : EngineCounters := ⟨0, 0, 0, 0, 0, 0, 0⟩

/-- Every stack-error count 0 (R50, R451). -/
def StackErrorCounters.zero : StackErrorCounters := ⟨[], 0⟩

/-- The correlator's registers as R451 sets them. -/
def Engine.constructed : Engine where
  slotSuper := .free
  slotStack := .free
  fifo := []
  collecting := false
  chainStack := 0
  chainWords := []
  chainOverflow := false
  chainBroken := false
  running := true
  stopReq := false
  counters := .zero
  stackErrors := .zero

/-- The machine right after reset: the parser's registers at the values of R450 with no table given yet
and no session started (R452 step 2 is the host's; DESIGN CHOICE, log 4), the engine as R451
constructs it, the suggested parameters (log 1 to 3), and nothing scheduled. -/
def State.reset : State where
  params := .suggested
  parser := .afterReset false []
  otherSessions := []
  engine := .constructed
  callers := []
  otherEngines := []
  written := []
  result := .nothing
  schedule := []

end Sys2Proof.Machine
end

