-- ==== Sys2Proof/Machine/Ops.lean ====
section
/-! DEFINITION. The named operations over tables, the scratch memory, the counters, the FIFO and the
slots; taking a parse error and an internal fault (R402, R403), and clearing the event (R32). -/

namespace Sys2Proof.Machine

/-! ## Tables and the scratch memory (R73, R74; log 13, 14) -/

/-- The value listed for a key. -/
def Sparse.find? {α : Type} (m : Sparse α) (k : Nat) : Option α :=
  match m with
  | [] => none
  | (j, v) :: m => if j = k then some v else Sparse.find? m k

/-- List `v` for key `k`, keeping the keys in rising order. -/
def Sparse.put {α : Type} (m : Sparse α) (k : Nat) (v : α) : Sparse α :=
  match m with
  | [] => [(k, v)]
  | (j, u) :: m =>
    if k < j then (k, v) :: (j, u) :: m
    else if k = j then (k, v) :: m
    else (j, u) :: Sparse.put m k v

/-- List nothing for key `k`. -/
def Sparse.erase {α : Type} (m : Sparse α) (k : Nat) : Sparse α :=
  m.filter (fun e => e.1 != k)

/-- The value of key `k` in a table whose unlisted keys hold `d`. -/
def Sparse.get {α : Type} (d : α) (m : Sparse α) (k : Nat) : α :=
  (Sparse.find? m k).getD d

/-- Give key `k` the value `v` in a table whose unlisted keys hold `d`: the value `d` is not listed. -/
def Sparse.set {α : Type} [DecidableEq α] (d : α) (m : Sparse α) (k : Nat) (v : α) : Sparse α :=
  if v = d then Sparse.erase m k else Sparse.put m k v

/-- The keys are strictly rising. -/
abbrev Sparse.rising {α : Type} (m : Sparse α) : Prop := (m.map Prod.fst).Pairwise (· < ·)

/-- The canonical form of a table whose unlisted keys hold `d`: keys strictly rising, `d` not listed. -/
abbrev Sparse.wf {α : Type} [DecidableEq α] (d : α) (m : Sparse α) : Prop :=
  Sparse.rising m ∧ ∀ e ∈ m, e.2 ≠ d

/-- The scratch memory in its canonical form: an unlisted word holds no value of its own (it reads as
the free value), so rising addresses are the whole of it. -/
abbrev Memory.wf (m : Sparse Word) : Prop := Sparse.rising m

/-- One word of the scratch memory (R73); a word nothing has written reads as a free value (U1). -/
def Memory.readWord (m : Sparse Word) (a : Nat) : Word :=
  (Sparse.find? m a).getD (Config.unwrittenScratch a)

/-- `MemRead(a, n)` (R10): `n` words from address `a`. -/
def Memory.read (m : Sparse Word) (a : Nat) : Nat → List Word
  | 0 => []
  | n + 1 => Memory.readWord m a :: Memory.read m (a + 1) n

/-- `MemWrite(a, 1, w)` (R10, R74). -/
def Memory.write (m : Sparse Word) (a : Nat) (w : Word) : Sparse Word := Sparse.put m a w

/-- The key of `(e, m)` in `P.counters.moduleStats`; one-to-one for `e < 16`. -/
def statKey (e m : Nat) : Nat := m * 16 + e

/-- The key of `hist[s][(errorLine, frameFlags)]` (R50); one-to-one. -/
def histKey (s : BitVec 4) (errorLine : BitVec 16) (frameFlags : BitVec 4) : Nat :=
  (s ++ errorLine ++ frameFlags).toNat

/-! ## The readout structure -/

/-- The modules of event `e` (R22); none for an index outside the table. -/
def ReadoutStructure.row (rs : ReadoutStructure) (e : Int) : List ModuleShape :=
  if e < 0 then [] else rs.getD e.toNat []

/-- The modules of the event in progress. -/
def Parser.modules (P : Parser) : List ModuleShape := ReadoutStructure.row P.rs P.eventIndex

/-- `P.RS[P.eventIndex][P.moduleIndex]`, the current module (R24). -/
def Parser.currentModule (P : Parser) : Option ModuleShape :=
  if P.moduleIndex < 0 then none else P.modules[P.moduleIndex.toNat]?

/-- `P.spans[m]` (R28). -/
def Parser.span (P : Parser) (m : Nat) : Span := Sparse.get Span.zero P.spans m

/-- `P.spans[m] <- v` (R28). -/
def Parser.setSpan (P : Parser) (m : Nat) (v : Span) : Parser :=
  { P with spans := Sparse.set Span.zero P.spans m v }

/-- The statistics of module `m` of event `e` (R34). -/
def ParserCounters.stats (c : ParserCounters) (e m : Nat) : ModuleStats :=
  Sparse.get ModuleStats.zero c.moduleStats (statKey e m)

/-! ## Counters -/

/-- The count of outcome `o` (R34). -/
def ParseResults.get (r : ParseResults) : ParseOutcome → Counter
  | .ok => r.ok
  | .needMoreInput => r.needMoreInput
  | .noStackFrameFound => r.noStackFrameFound
  | .unexpectedFrameType => r.unexpectedFrameType
  | .stackIndexOutOfRange => r.stackIndexOutOfRange
  | .stackIndexChanged => r.stackIndexChanged
  | .emptyStackFrame => r.emptyStackFrame
  | .unexpectedNonEmptyStackFrame => r.unexpectedNonEmptyStackFrame
  | .unexpectedOpenBlockOnNewEvent => r.unexpectedOpenBlockOnNewEvent
  | .bufferNotAdvancing => r.bufferNotAdvancing
  | .truncatedInput => r.truncatedInput
  | .unhandledException => r.unhandledException
  | .systemEventDropped => r.systemEventDropped

/-- `P.parseResults[o] += 1` (R191), wrapping (R34). -/
def ParseResults.bump (r : ParseResults) : ParseOutcome → ParseResults
  | .ok => { r with ok := r.ok + 1 }
  | .needMoreInput => { r with needMoreInput := r.needMoreInput + 1 }
  | .noStackFrameFound => { r with noStackFrameFound := r.noStackFrameFound + 1 }
  | .unexpectedFrameType => { r with unexpectedFrameType := r.unexpectedFrameType + 1 }
  | .stackIndexOutOfRange => { r with stackIndexOutOfRange := r.stackIndexOutOfRange + 1 }
  | .stackIndexChanged => { r with stackIndexChanged := r.stackIndexChanged + 1 }
  | .emptyStackFrame => { r with emptyStackFrame := r.emptyStackFrame + 1 }
  | .unexpectedNonEmptyStackFrame =>
    { r with unexpectedNonEmptyStackFrame := r.unexpectedNonEmptyStackFrame + 1 }
  | .unexpectedOpenBlockOnNewEvent =>
    { r with unexpectedOpenBlockOnNewEvent := r.unexpectedOpenBlockOnNewEvent + 1 }
  | .bufferNotAdvancing => { r with bufferNotAdvancing := r.bufferNotAdvancing + 1 }
  | .truncatedInput => { r with truncatedInput := r.truncatedInput + 1 }
  | .unhandledException => { r with unhandledException := r.unhandledException + 1 }
  | .systemEventDropped => { r with systemEventDropped := r.systemEventDropped + 1 }

/-- Count outcome `o` in the histogram. -/
def Parser.bumpResult (o : ParseOutcome) (P : Parser) : Parser :=
  { P with counters := { P.counters with parseResults := P.counters.parseResults.bump o } }

/-- `4 * n` as a counter increment: the bytes of `n` words (R71). -/
def bytesOfWords (n : Nat) : Counter := BitVec.ofNat 64 (4 * n)

/-- `P.unusedBytes += 4 * n` (R193). -/
def Parser.addUnused (n : Nat) (P : Parser) : Parser :=
  { P with counters := { P.counters with unusedBytes := P.counters.unusedBytes + bytesOfWords n } }

/-- `P.bytesProcessed += 4 * n` (R192). -/
def Parser.addProcessed (n : Nat) (P : Parser) : Parser :=
  { P with counters := { P.counters with bytesProcessed := P.counters.bytesProcessed + bytesOfWords n } }

/-! ## The read position and the per-unit marks -/

/-- `rp += n` (R10). -/
def Parser.advance (n : Nat) (P : Parser) : Parser :=
  { P with call := { P.call with rp := P.call.rp + n } }

/-- `unitTook <- 1` (R33). -/
def Parser.markTook (P : Parser) : Parser := { P with call := { P.call with unitTook := true } }

/-- `unitSkipped <- 1` (R33). -/
def Parser.markSkipped (P : Parser) : Parser := { P with call := { P.call with unitSkipped := true } }

/-- The words from the read position to the end of the unit. -/
def Parser.ahead (P : Parser) : List Word := P.call.unit.drop P.call.rp

/-- `|U| - rp`. -/
def Parser.remaining (P : Parser) : Nat := P.call.unit.length - P.call.rp

/-! ## Taking a parse outcome: the block's exceptions -/

/-- `clear_event_state()` (R32). The contents of the scratch buffer become unspecified (R29), so nothing
is listed for it any more. -/
def Parser.clearEventState (P : Parser) : Parser :=
  { P with
    eventIndex := -1
    moduleIndex := -1
    phase := .prefixPhase
    stackF := .closed
    blockF := .closed
    spans := []
    scratch := []
    used := 0 }

/-- `raised <- 1`, and `unitFirst` and `callFirst` where none is set yet (R402, R403). -/
def CallState.noteOutcome (o : ParseOutcome) (c : CallState) : CallState :=
  { c with
    raised := true
    unitFirst := c.unitFirst.or (some o)
    callFirst := c.callFirst.or (some o) }

/-- `raise o` (R402): the entry of a parse error. Its "return" is that the parser is in Idle at the
position the raising rule left. -/
def Parser.raise (o : ParseOutcome) (P : Parser) : Parser :=
  Parser.clearEventState { Parser.bumpResult o P with call := P.call.noteOutcome o }

/-- `P.exceptionCount += 1` if the fault is UnhandledException (R403). -/
def Parser.countException (o : ParseOutcome) (P : Parser) : Parser :=
  if o = .unhandledException then
    { P with counters := { P.counters with exceptionCount := P.counters.exceptionCount + 1 } }
  else P

/-- `P.unusedBytes += 4 * (|U| - rp); rp <- |U|`: the rest of the unit is abandoned (R403). -/
def Parser.abandonUnit (P : Parser) : Parser :=
  let Q := Parser.addUnused P.remaining P
  { Q with call := { Q.call with rp := Q.call.unit.length } }

/-- `fault o` (R403): the entry of an internal fault. -/
def Parser.fault (o : ParseOutcome) (P : Parser) : Parser :=
  Parser.abandonUnit (Parser.raise o (Parser.countException o P))

/-! ## Output ports -/

/-- `emit Port(args)` (R10, R77): recorded at the end of the list of emissions (R80). -/
def Parser.emit (e : Emission) (P : Parser) : Parser := { P with emitted := P.emitted ++ [e] }

/-! ## The command FIFO (R76) -/

/-- `F.push` for each word of `ws`, in order (R76, R307). -/
def Engine.push (ws : List Word) (T : Engine) : Engine := { T with fifo := T.fifo ++ ws }

/-- `F.pop(n)` (R76). -/
def Engine.pop (n : Nat) (T : Engine) : Engine := { T with fifo := T.fifo.drop n }

/-! ## Slots (R45, R319) -/

/-- The tag is `Pending`. -/
def Slot.isPending {w : Nat} : Slot w → Bool
  | .free => false
  | .pending _ => true
  | .fulfilled _ => false

/-- The tag is `Free`. -/
def Slot.isFree {w : Nat} : Slot w → Bool
  | .free => true
  | .pending _ => false
  | .fulfilled _ => false

/-- `fulfil(Super, r)` (R319). -/
def Engine.fulfilSuper (r : TxResult) (T : Engine) : Engine := { T with slotSuper := .fulfilled r }

/-- `fulfil(Stack, r)` (R319). -/
def Engine.fulfilStack (r : TxResult) (T : Engine) : Engine := { T with slotStack := .fulfilled r }

/-- Shutdown's part for one slot: a pending transaction fails with Disconnected, any other slot stays as
it is (R320). -/
def Slot.disconnect {w : Nat} : Slot w → Slot w
  | .free => .free
  | .pending _ => .fulfilled (.err .disconnected)
  | .fulfilled r => .fulfilled r

/-- The collector emptied (R314, R320). -/
def Engine.clearChain (T : Engine) : Engine :=
  { T with chainWords := [], chainOverflow := false, chainBroken := false }

/-- `shutdown()` (R320). -/
def Engine.shutdown (T : Engine) : Engine :=
  { Engine.clearChain T with
    fifo := []
    collecting := false
    slotSuper := T.slotSuper.disconnect
    slotStack := T.slotStack.disconnect
    running := false }

/-- `if T.stopReq = 1 then call shutdown()`: the check at every read return (R307, R316). -/
def Engine.stopCheck (T : Engine) : Engine := if T.stopReq then T.shutdown else T

/-! ## Updates of the machine's state -/

/-- The parser replaced. -/
def State.withParser (s : State) (P : Parser) : State := { s with parser := P }

/-- The engine replaced. -/
def State.withEngine (s : State) (T : Engine) : State := { s with engine := T }

/-- The result an operation returns (log 8). -/
def State.withResult (s : State) (r : OpResult) : State := { s with result := r }

/-- Caller `c` at step `k` (R51). -/
def State.setCallerStep (s : State) (c : Nat) (k : CallerStep) : State :=
  { s with callers := s.callers.modify c (fun a => { a with step := k }) }

/-- A transport write recorded (R303; log 9). -/
def State.recordWrite (s : State) (ws : List Word) (ok : Bool) : State :=
  { s with written := s.written ++ [⟨ws, ok⟩] }

/-- A parse call is open (R455). -/
def Parser.callOpen (P : Parser) : Bool :=
  match P.call.stage with
  | .noCall => false
  | .usbUnit => true
  | .ethUnit _ => true
  | .ethHeader0 _ => true
  | .ethHeader1 _ _ => true

end Sys2Proof.Machine
end

