-- ==== Sys2Proof/Machine/Builder.lean ====
section
/-! DEFINITION. The readout structure builder (R160 to R165). -/

namespace Sys2Proof.Machine

/-- The builder's variables while it walks a module's commands (R162). -/
structure BuildState where
  prefixLen : Nat
  suffixLen : Nat
  hasDynamic : Bool
  accu : Bool
deriving DecidableEq, Repr

/-- The variables at the start of a module (R162). -/
def BuildState.start : BuildState := ⟨0, 0, false, false⟩

/-- `single(n)` (R162); `none` is Malformed. -/
def BuildState.single (n : Nat) (b : BuildState) : Option BuildState :=
  let c := if b.hasDynamic then { b with suffixLen := b.suffixLen + n }
    else { b with prefixLen := b.prefixLen + n }
  if 255 < c.prefixLen ∨ 255 < c.suffixLen then none else some c

/-- `block_producer()` (R162); `none` is Malformed. -/
def BuildState.blockProducer (b : BuildState) : Option BuildState :=
  if b.hasDynamic then none else some { b with hasDynamic := true }

/-- One command (R162). -/
def BuildState.command (b : BuildState) : Command → Option BuildState
  | .setAccu => some { b with accu := true }
  | .vmeRead => if b.accu then BuildState.blockProducer { b with accu := false } else b.single 1
  | .vmeBlockRead => BuildState.blockProducer { b with accu := false }
  | .writeMarker => b.single 1
  | .writeSpecial => b.single 1
  | .custom n => b.single n
  | .other => some b

/-- The commands in order (R162). -/
def BuildState.walk (b : BuildState) : List Command → Option BuildState
  | [] => some b
  | c :: cs => (b.command c).bind (fun d => BuildState.walk d cs)

/-- `build_module(cmds)` (R162); `none` is Malformed. -/
def buildModule (cmds : List Command) : Option ModuleShape :=
  (BuildState.start.walk cmds).map (fun b =>
    ⟨BitVec.ofNat 8 b.prefixLen, BitVec.ofNat 8 b.suffixLen, b.hasDynamic⟩)

/-- The result of the builder (R161): the table, or the first failure as (event, module). -/
inductive BuildResult where
  | table (rs : ReadoutStructure)
  | error (event : Nat) (module : Int)
deriving DecidableEq, Repr

/-- The modules of one event from module `m` on: their shapes, or the first malformed module (R161). -/
def buildEvent : Nat → List (List Command) → Except Nat (List ModuleShape)
  | _, [] => .ok []
  | m, cmds :: rest =>
    match buildModule cmds with
    | none => .error m
    | some shape =>
      match buildEvent (m + 1) rest with
      | .error k => .error k
      | .ok shapes => .ok (shape :: shapes)

/-- The events from event `e` on (R161). -/
def buildEvents : Nat → Programs → BuildResult
  | _, [] => .table []
  | e, mods :: rest =>
    match buildEvent 0 mods with
    | .error m => .error e m
    | .ok shapes =>
      match buildEvents (e + 1) rest with
      | .error f m => .error f m
      | .table rs => .table (shapes :: rs)

/-- The first event of more than `MAX_MODULES` modules, from event `e` on (R161). -/
def firstOversized (p : Params) : Nat → Programs → Option Nat
  | _, [] => none
  | e, mods :: rest => if p.maxModules < mods.length then some e else firstOversized p (e + 1) rest

/-- `build_readout_structure(programs)` (R161): too many events first, then an event with too many
modules, then the first malformed module. -/
def buildReadoutStructure (p : Params) (programs : Programs) : BuildResult :=
  if maxEvents < programs.length then .error 15 (-1)
  else
    match firstOversized p 0 programs with
    | some e => .error e (-1)
    | none => buildEvents 0 programs

/-- The result as an operation returns it. -/
def BuildResult.toResult : BuildResult → OpResult
  | .table rs => .table rs
  | .error e m => .buildError e m

/-- `build_readout_structure` (R161): pure; a failed build loads nothing and counts nothing (R165). -/
def execBuildReadoutStructure (programs : Programs) (s : State) : Host.Outcome State Fault Refusal :=
  .next (s.withResult (buildReadoutStructure s.params programs).toResult)

end Sys2Proof.Machine
end

