-- ==== Sys2Proof/Machine/Codec.lean ====
section
/-! DEFINITION. The codec operations (R140 to R148): pure, their value returned as the result (R149). -/

namespace Sys2Proof.Machine

/-- `decode_header` (R140). -/
def execDecodeHeader (w : Word) (s : State) : Host.Outcome State Fault Refusal :=
  .next (s.withResult (.header (decodeHeader s.params w)))

/-- `encode_header` (R141). -/
def execEncodeHeader (type flags id length : Nat) (s : State) : Host.Outcome State Fault Refusal :=
  .next (s.withResult (.word (encodeHeader type flags id length)))

/-- `is_good_header` (R142). -/
def execIsGoodHeader (w : Word) (s : State) : Host.Outcome State Fault Refusal :=
  .next (s.withResult (.bool (isGoodHeader s.params w)))

/-- `frame_kind` (R143). -/
def execFrameKind (type : BitVec 8) (s : State) : Host.Outcome State Fault Refusal :=
  .next (s.withResult (.kind (frameKind s.params type)))

/-- `decode_sysevent_header` (R145). -/
def execDecodeSyseventHeader (w : Word) (s : State) : Host.Outcome State Fault Refusal :=
  .next (s.withResult (.sysEvent (decodeSysEventHeader w)))

/-- `encode_sysevent_header` (R146). -/
def execEncodeSyseventHeader (continueBit ctrlId subtype length : Nat) (s : State) :
    Host.Outcome State Fault Refusal :=
  .next (s.withResult (.word (encodeSysEventHeader continueBit ctrlId subtype length)))

/-- `has_continue` (R147). -/
def execHasContinue (w : Word) (s : State) : Host.Outcome State Fault Refusal :=
  .next (s.withResult (.bool (hasContinue w)))

/-- `decode_eth_header` (R148). -/
def execDecodeEthHeader (w0 w1 : Word) (s : State) : Host.Outcome State Fault Refusal :=
  .next (s.withResult (.eth (decodeEthHeader w0 w1)))

end Sys2Proof.Machine
end

