-- ==== Sys2Proof/Machine/Flags.lean ====
section
/-! DEFINITION. The flags of frame headers (R102) and the one-bit results the rules compute. -/

namespace Sys2Proof.Machine

/-- The four flags of a header word (R102). -/
structure FrameFlags where
  continueFlag : Bool
  syntaxError : Bool
  busError : Bool
  timeout : Bool
deriving DecidableEq, Repr

/-- The flags of `frameFlags` (R102): bit 3 Continue, bits 2 to 0 SyntaxError, BusError, Timeout. -/
def frameFlags (f : BitVec 4) : FrameFlags where
  continueFlag := f.getLsbD 3
  syntaxError := f.getLsbD 2
  busError := f.getLsbD 1
  timeout := f.getLsbD 0

/-- `frameFlags` from the four flags (R102, R116). -/
def packFlags (f : FrameFlags) : BitVec 4 :=
  BitVec.ofBool f.continueFlag ++ BitVec.ofBool f.syntaxError ++ BitVec.ofBool f.busError ++
    BitVec.ofBool f.timeout

/-- The gap of a sequence number against the last one seen, modulo the number's width (R182, R186). -/
def seqGap {w : Nat} (last n : BitVec w) : BitVec w := n - last - 1

/-- The Dynamic phase is over: a BlockRead header without Continue was read and its payload copied
(R247). -/
def blockFinished (b : Cursor) : Bool :=
  b.hdr != 0 && b.left == 0 && !hasContinue b.hdr

end Sys2Proof.Machine
end

