-- ==== Sys2Proof/Machine/Operands.lean ====
section
/-! DEFINITION. The operands the rules take from words, payloads and packets. -/

namespace Sys2Proof.Machine

/-- `ev <- w[19:16] - 1`, the event a StackFrame header selects, from -1 to 14 (R166, R242). -/
def eventOfHeader (w : Word) : Int := (stackNumOf w).toNat - 1

/-- The payload of the frame whose header stands at the head of `ws` (R308, R313). -/
def payloadOf (ws : List Word) (hdr : Word) : List Word := (ws.drop 1).take (payloadWords hdr)

/-- The frame with header `hdr` at the head of the FIFO is there in full (R308, R313). -/
def frameComplete (ws : List Word) (hdr : Word) : Bool := decide (1 + payloadWords hdr ≤ ws.length)

/-- A super reply carries `ref` in bits 15:0 of its first payload word (R310); without a payload word it
has no reference (D55). -/
def superRefMatches (pay : List Word) (ref : BitVec 16) : Bool :=
  match pay with
  | [] => false
  | w :: _ => field w 0 16 == ref

/-- A stack reply carries `ref` as its whole first payload word (R314). -/
def stackRefMatches (chain : List Word) (ref : BitVec 32) : Bool :=
  match chain with
  | [] => false
  | w :: _ => w == ref

/-- `errorLine`, bits 15:0 of a StackError frame's first payload word (R315). -/
def errorLineOf (w : Word) : BitVec 16 := field w 0 16

/-- The data words present of a packet that announces `ndw` of them: a packet cut short keeps the words
present (R185). -/
def packetDataWords (ndw : BitVec 13) (rest : List Word) : Nat := min ndw.toNat rest.length

/-- The header pointer that says "no header in this packet" (R109). -/
def noHeaderPointer : BitVec 12 := 0xFFF

/-- `start_position(hp, n)` (R187). -/
def startPosition (eventIndex : Int) (hp : BitVec 12) (n : Nat) : Nat :=
  if 0 ≤ eventIndex then 0
  else if hp ≠ noHeaderPointer ∧ hp.toNat < n then hp.toNat
  else n

end Sys2Proof.Machine
end

