-- ==== Sys2Proof/Machine/Reader.lean ====
section
/-! DEFINITION. The reader of the command pipe (R308 to R315): what it does with the word at the FIFO
head, and its handlers. -/

namespace Sys2Proof.Machine

/-! ## Counters (R49) -/

/-- `T.skippedWords += 1` (R308). -/
def Engine.countSkipped (T : Engine) : Engine :=
  { T with counters := { T.counters with skippedWords := T.counters.skippedWords + 1 } }

/-- `T.readTimeouts += 1` (R316). -/
def Engine.countTimeout (T : Engine) : Engine :=
  { T with counters := { T.counters with readTimeouts := T.counters.readTimeouts + 1 } }

/-- `T.superRefMismatches += 1` (R310). -/
def Engine.countSuperMismatch (T : Engine) : Engine :=
  { T with counters := { T.counters with superRefMismatches := T.counters.superRefMismatches + 1 } }

/-- `T.stackRefMismatches += 1` (R314). -/
def Engine.countStackMismatch (T : Engine) : Engine :=
  { T with counters := { T.counters with stackRefMismatches := T.counters.stackRefMismatches + 1 } }

/-- `T.unexpectedSuperFrames += 1` (R310). -/
def Engine.countUnexpectedSuper (T : Engine) : Engine :=
  { T with counters := { T.counters with unexpectedSuperFrames := T.counters.unexpectedSuperFrames + 1 } }

/-- `T.unexpectedStackFrames += 1` (R314). -/
def Engine.countUnexpectedStack (T : Engine) : Engine :=
  { T with counters := { T.counters with unexpectedStackFrames := T.counters.unexpectedStackFrames + 1 } }

/-- `T.stackChainBroken += 1` (R313). -/
def Engine.countChainBroken (T : Engine) : Engine :=
  { T with counters := { T.counters with stackChainBroken := T.counters.stackChainBroken + 1 } }

/-! ## A SuperFrame reply (R310) -/

/-- The handler of a SuperFrame with payload `pay` (R310). -/
def Engine.superReply (p : Params) (pay : List Word) (T : Engine) : Engine :=
  match T.slotSuper with
  | .free => T.countUnexpectedSuper
  | .fulfilled _ => T.countUnexpectedSuper
  | .pending ref =>
    if superRefMatches pay ref then
      if p.respMaxWords < pay.length then T.fulfilSuper (.err .protocolError)
      else T.fulfilSuper (.ok pay)
    else T.countSuperMismatch.fulfilSuper (.err .referenceMismatch)

/-! ## A StackFrame reply and its chain (R311 to R314) -/

/-- `append(pay)` (R312). -/
def Engine.appendChain (p : Params) : List Word → Engine → Engine
  | [], T => T
  | x :: pay, T =>
    if T.chainWords.length < p.respMaxWords then
      Engine.appendChain p pay { T with chainWords := T.chainWords ++ [x] }
    else Engine.appendChain p pay { T with chainOverflow := true }

/-- The judgement of `finish_chain()` on the stack slot (R314). -/
def Engine.judgeChain (T : Engine) : Engine :=
  match T.slotStack with
  | .free => T.countUnexpectedStack
  | .fulfilled _ => T.countUnexpectedStack
  | .pending ref =>
    if stackRefMatches T.chainWords ref then
      if T.chainBroken || T.chainOverflow then T.fulfilStack (.err .protocolError)
      else T.fulfilStack (.ok T.chainWords)
    else T.countStackMismatch.fulfilStack (.err .referenceMismatch)

/-- `finish_chain()` (R314). -/
def Engine.finishChain (T : Engine) : Engine :=
  Engine.clearChain (Engine.judgeChain { T with collecting := false })

/-- The chain opened by a StackFrame header (R311). -/
def Engine.openChain (hdr : Word) (T : Engine) : Engine :=
  { T.clearChain with chainStack := stackNumOf hdr }

/-- The handler of a StackFrame with header `hdr` and payload `pay` (R311). -/
def Engine.stackReply (p : Params) (hdr : Word) (pay : List Word) (T : Engine) : Engine :=
  let Q := (T.openChain hdr).appendChain p pay
  if hasContinue hdr then { Q with collecting := true } else Q.finishChain

/-! ## A StackError frame (R315) -/

/-- The count of `hist[s][(line, flags)]` (R50). -/
def StackErrorCounters.count (c : StackErrorCounters) (s : BitVec 4) (line : BitVec 16)
    (flags : BitVec 4) : Counter :=
  Sparse.get 0 c.hist (histKey s line flags)

/-- `hist[s][(line, flags)] += 1` (R315). -/
def StackErrorCounters.bump (c : StackErrorCounters) (s : BitVec 4) (line : BitVec 16)
    (flags : BitVec 4) : StackErrorCounters :=
  { c with hist := Sparse.set 0 c.hist (histKey s line flags) (c.count s line flags + 1) }

/-- The handler of a StackError frame (R315). -/
def Engine.stackErrorFrame (hdr : Word) (pay : List Word) (T : Engine) : Engine :=
  match pay with
  | [] => { T with stackErrors := { T.stackErrors with nonErrorFrames := T.stackErrors.nonErrorFrames + 1 } }
  | w :: _ =>
    if numErrStacks ≤ (stackNumOf hdr).toNat then
      { T with stackErrors := { T.stackErrors with nonErrorFrames := T.stackErrors.nonErrorFrames + 1 } }
    else
      { T with stackErrors := T.stackErrors.bump (stackNumOf hdr) (errorLineOf w) (flagsOf hdr) }

/-! ## The reader's step (R308, R309, R313) -/

/-- `dispatch(hdr, pay)` (R309): the three types of good headers. -/
def Engine.dispatchFrame (p : Params) (hdr : Word) (pay : List Word) (T : Engine) : Engine :=
  if typeOf hdr = p.typeSuper then T.superReply p pay
  else if typeOf hdr = 0xF3#8 then T.stackReply p hdr pay
  else T.stackErrorFrame hdr pay

/-- The reader with no chain being collected, `w` being the head word (R308). A good header whose frame is
not in the FIFO in full waits: nothing changes (log 7). -/
def Engine.headWord (p : Params) (w : Word) (T : Engine) : Engine :=
  if isGoodHeader p w = false then (T.pop 1).countSkipped
  else if frameComplete T.fifo w then
    (T.pop (1 + payloadWords w)).dispatchFrame p w (payloadOf T.fifo w)
  else T

/-- The reader while collecting, `w` being the head word (R313). -/
def Engine.chainWord (p : Params) (w : Word) (T : Engine) : Engine :=
  if typeOf w = 0xF9#8 ∧ stackNumOf w = T.chainStack then
    if frameComplete T.fifo w then
      let Q := (T.pop (1 + payloadWords w)).appendChain p (payloadOf T.fifo w)
      if hasContinue w then Q else Q.finishChain
    else T
  else Engine.finishChain { T.countChainBroken with chainBroken := true }

/-- What the reader does with the head word `w` (R308, R313). Its step is enabled only while it runs and
the FIFO holds a word. -/
def Engine.readerWord (p : Params) (w : Word) (T : Engine) : Engine :=
  if T.running && !T.fifo.isEmpty then
    if T.collecting then T.chainWord p w else T.headWord p w
  else T

/-- One reader step (R308, R313); not enabled on an empty FIFO. -/
def Engine.readerStep (p : Params) (T : Engine) : Engine :=
  match T.fifo with
  | [] => T
  | w :: _ => T.readerWord p w

end Sys2Proof.Machine
end

