-- ==== Sys2Proof/Machine/Engine.lean ====
section
/-! DEFINITION. The transport's and the host's operations on the correlator, the caller's steps, and the
instructions of both (44_transaction_engine.md, R451). -/

namespace Sys2Proof.Machine

/-! ## Transport events (R307, R316, R317) -/

/-- A delivery of `ws` is enabled: the reader runs and the words fit the FIFO (R79, R307). -/
def Engine.canDeliver (p : Params) (ws : List Word) (T : Engine) : Bool :=
  T.running && decide (T.fifo.length + ws.length ≤ p.cmdFifoWords)

/-- `rx_words(ws)` (R307). A delivery that is not enabled does not happen: the transport is not read and
keeps its words (R79; log 7). -/
def Engine.rxWords (p : Params) (ws : List Word) (T : Engine) : Engine :=
  if T.canDeliver p ws then (T.push ws).stopCheck else T

/-- `rx_timeout()` (R316). -/
def Engine.rxTimeout (T : Engine) : Engine := if T.running then T.countTimeout.stopCheck else T

/-- `rx_disconnect()` (R317). -/
def Engine.rxDisconnect (T : Engine) : Engine := if T.running then T.shutdown else T

/-! ## The caller's steps (R301 to R304) -/

/-- Start (R301). -/
def State.callerStart (s : State) (c : Nat) : State :=
  if s.engine.running then s.setCallerStep c .waitSlot
  else s.setCallerStep c (.done (.err .disconnected))

/-- The tag of the slot of a request's kind is Free (R302). -/
def Engine.slotFree (T : Engine) : Request → Bool
  | .super _ => T.slotSuper.isFree
  | .stack _ => T.slotStack.isFree

/-- `T.slot[c.kind] <- Pending(c.ref)` (R302). -/
def Engine.install (T : Engine) : Request → Engine
  | .super ref => { T with slotSuper := .pending ref }
  | .stack ref => { T with slotStack := .pending ref }

/-- `T.slot[c.kind] <- Free` (R303, R304). -/
def Engine.release (T : Engine) : Request → Engine
  | .super _ => { T with slotSuper := .free }
  | .stack _ => { T with slotStack := .free }

/-- The tag of the slot of a request's kind is Pending (R303). -/
def Engine.slotPending (T : Engine) : Request → Bool
  | .super _ => T.slotSuper.isPending
  | .stack _ => T.slotStack.isPending

/-- The result a slot holds, if its tag is Fulfilled (R304). -/
def Slot.resultOf {w : Nat} : Slot w → Option TxResult
  | .free => none
  | .pending _ => none
  | .fulfilled r => some r

/-- The result the slot of a request's kind holds (R304). -/
def Engine.slotResult (T : Engine) : Request → Option TxResult
  | .super _ => T.slotSuper.resultOf
  | .stack _ => T.slotStack.resultOf

/-- WaitSlot (R302): the test and the install are one step; while the slot is taken the caller waits. -/
def State.callerWaitSlot (s : State) (c : Nat) (q : Request) : State :=
  if s.engine.running then
    if s.engine.slotFree q then (s.withEngine (s.engine.install q)).setCallerStep c .writing else s
  else s.setCallerStep c (.done (.err .disconnected))

/-- Take the result of a fulfilled slot and free it (R303, R304); while there is none the caller waits. -/
def State.callerTake (s : State) (c : Nat) (q : Request) : State :=
  match s.engine.slotResult q with
  | some r => (s.withEngine (s.engine.release q)).setCallerStep c (.done r)
  | none => s

/-- Writing (R303): `ok` is the outcome of the transport write, the environment's choice (U9). -/
def State.callerWriting (s : State) (c : Nat) (q : Request) (ws : List Word) (ok : Bool) : State :=
  let t := s.recordWrite ws ok
  if ok then t.setCallerStep c .waitDone
  else if t.engine.slotPending q then
    (t.withEngine (t.engine.release q)).setCallerStep c (.done (.err .writeFailed))
  else t.callerTake c q

/-- WaitDone (R304). -/
def State.callerWaitDone (s : State) (c : Nat) (q : Request) : State := s.callerTake c q

/-- The next step of caller `c` (R300: one atomic transition). A caller that does not exist, or is done,
has no step (log 7). -/
def State.callerStep (s : State) (c : Nat) (writeOk : Bool) : State :=
  match s.callers[c]? with
  | none => s
  | some a =>
    match a.step with
    | .start => s.callerStart c
    | .waitSlot => s.callerWaitSlot c a.request
    | .writing => s.callerWriting c a.request a.words writeOk
    | .waitDone => s.callerWaitDone c a.request
    | .done _ => s

/-- A submission adds a caller at its Start step (R301) and answers with the caller (log 18). Start itself is
the caller's own transition (R300). -/
def State.submit (s : State) (q : Request) (ws : List Word) : State :=
  State.withResult { s with callers := s.callers ++ [⟨q, ws, .start⟩] } (.caller s.callers.length)

/-! ## Several engines (R414; log 19) -/

/-- The engine the host works with, and its callers. -/
def State.correlator (s : State) : Correlator := ⟨s.engine, s.callers⟩

/-- Another engine and its callers in the place of the ones the host works with. -/
def State.withCorrelator (s : State) (c : Correlator) : State := { s with engine := c.engine, callers := c.callers }

/-- The host turns to the `k`-th other engine; the one it leaves takes that place, unchanged. Without such an
engine nothing happens (log 7). -/
def State.turnToEngine (s : State) (k : Nat) : State :=
  match s.otherEngines[k]? with
  | none => s
  | some c => { s.withCorrelator c with otherEngines := s.otherEngines.set k s.correlator }

/-! ## The instructions -/

/-- `engine_construct` (R451). The engine it replaces stays beside the new one with its callers, since engines
share no state (R414) and its callers still finish (R321; log 19). -/
def execEngineConstruct (s : State) : Host.Outcome State Fault Refusal :=
  .next { s.withCorrelator ⟨.constructed, []⟩ with otherEngines := s.correlator :: s.otherEngines }

/-- `submit_super_transaction` (R301). -/
def execSubmitSuperTransaction (ref : BitVec 16) (words : List Word) (s : State) :
    Host.Outcome State Fault Refusal :=
  .next (s.submit (.super ref) words)

/-- `submit_stack_transaction` (R301). -/
def execSubmitStackTransaction (ref : BitVec 32) (words : List Word) (s : State) :
    Host.Outcome State Fault Refusal :=
  .next (s.submit (.stack ref) words)

/-- `rx_words` (R307); a read without data is `rx_timeout`, not a delivery (R307: `|ws| ≥ 1`). -/
def execRxWords (ws : List Word) (s : State) : Host.Outcome State Fault Refusal :=
  if wellFormed s.params (.rxWords ws) then .next (s.withEngine (s.engine.rxWords s.params ws))
  else .refused .operandOutOfRange

/-- `reader_step` (R308, R313). -/
def execReaderStep (s : State) : Host.Outcome State Fault Refusal :=
  .next (s.withEngine (s.engine.readerStep s.params))

/-- `rx_timeout` (R316). -/
def execRxTimeout (s : State) : Host.Outcome State Fault Refusal :=
  .next (s.withEngine s.engine.rxTimeout)

/-- `rx_disconnect` (R317). -/
def execRxDisconnect (s : State) : Host.Outcome State Fault Refusal :=
  .next (s.withEngine s.engine.rxDisconnect)

/-- `request_stop` (R318). -/
def execRequestStop (s : State) : Host.Outcome State Fault Refusal :=
  .next (s.withEngine { s.engine with stopReq := true })

/-- `clear_stack_error_counters` (R322). -/
def execClearStackErrorCounters (s : State) : Host.Outcome State Fault Refusal :=
  .next (s.withEngine { s.engine with stackErrors := .zero })

/-- `read_engine_counters` (R416). -/
def execReadEngineCounters (s : State) : Host.Outcome State Fault Refusal :=
  .next (s.withResult (.engineCounters s.engine.counters s.engine.stackErrors))

end Sys2Proof.Machine
end

