-- ==== Sys2Proof/Machine/Reassembly.lean ====
section
/-! DEFINITION. The reassembly state machine (43_parser_reassembly.md): one iteration of the loop, and
the loop over one input unit. -/

namespace Sys2Proof.Machine

/-! ## Completing an event (R257 to R259) -/

/-- `ModuleData(m)` (R258): one read of the scratch buffer, since a module's parts are contiguous. -/
def Parser.moduleData (P : Parser) (m : Nat) : ModuleData :=
  let sp := P.span m
  let size := sp.prefixSpan.size + sp.dynamicSpan.size + sp.suffixSpan.size
  { data := Memory.read P.scratch sp.prefixSpan.off size
    size := size
    prefixSize := sp.prefixSpan.size
    dynamicSize := sp.dynamicSpan.size
    suffixSize := sp.suffixSpan.size }

/-- One `ModuleData` for each module of the event in progress, in module order (R77, R258). -/
def Parser.eventModules (P : Parser) : List ModuleData :=
  (List.range P.modules.length).map P.moduleData

/-- The statistics of a module after one more event in which it holds `size` words (R259). -/
def ModuleStats.record (st : ModuleStats) (size : Counter) : ModuleStats where
  hits := st.hits + 1
  sizeMin := if size ≤ st.sizeMin then size else st.sizeMin
  sizeMax := if st.sizeMax ≤ size then size else st.sizeMax
  sizeSum := st.sizeSum + size

/-- The update of one module's counters (R259). -/
def ParserCounters.recordModule (e m size : Nat) (c : ParserCounters) : ParserCounters :=
  let st := (c.stats e m).record (BitVec.ofNat 64 size)
  { c with moduleStats := Sparse.set ModuleStats.zero c.moduleStats (statKey e m) st }

/-- The updates of the modules `m`, `m + 1`, ... with these data (R259). -/
def ParserCounters.recordModules (e : Nat) (c : ParserCounters) : Nat → List ModuleData → ParserCounters
  | _, [] => c
  | m, d :: ds => ParserCounters.recordModules e (ParserCounters.recordModule e m d.size c) (m + 1) ds

/-- `emit_event(e)` (R258). -/
def Parser.emitEvent (P : Parser) : Parser :=
  Parser.emit (.eventData P.eventIndex P.eventModules) P

/-- `update_module_counters(e)` (R259). -/
def Parser.updateModuleCounters (P : Parser) : Parser :=
  { P with counters := P.counters.recordModules P.eventIndex.toNat 0 P.eventModules }

/-- `complete_event()` (R257). -/
def Parser.completeEvent (P : Parser) : Parser :=
  P.emitEvent.updateModuleCounters.clearEventState

/-! ## Starting an event and a module (R245 to R247) -/

/-- `enter_module(m)` (R246). -/
def Parser.enterModule (m : Nat) (P : Parser) : Parser :=
  { P.setSpan m ⟨⟨P.used, 0⟩, ⟨P.used, 0⟩, ⟨P.used, 0⟩⟩ with
    phase := .prefixPhase
    blockF := .closed }

/-- The current module leaves Prefix (R247): Dynamic if it has a dynamic part, else Suffix. -/
def Parser.leavePrefix (hasDynamic : Bool) (P : Parser) : Parser :=
  let m := P.moduleIndex.toNat
  let sp := P.span m
  if hasDynamic then
    { P.setSpan m { sp with dynamicSpan := { sp.dynamicSpan with off := P.used } } with
      phase := .dynamicPhase
      blockF := .closed }
  else
    { P.setSpan m { sp with
        dynamicSpan := { sp.dynamicSpan with off := P.used }
        suffixSpan := { sp.suffixSpan with off := P.used } } with
      phase := .suffixPhase }

/-- The current module leaves Dynamic for Suffix (R247). -/
def Parser.leaveDynamic (P : Parser) : Parser :=
  let m := P.moduleIndex.toNat
  let sp := P.span m
  { P.setSpan m { sp with suffixSpan := { sp.suffixSpan with off := P.used } } with
    phase := .suffixPhase }

/-- The loop of `settle()` (R247): at most `fuel` passes. Without a current module there is no state of
R31 to settle, and nothing is done (log 16). -/
def Parser.settleLoop : Nat → Parser → Parser
  | 0, P => P
  | fuel + 1, P =>
    match P.currentModule with
    | none => P
    | some mod =>
      let sp := P.span P.moduleIndex.toNat
      match P.phase with
      | .prefixPhase =>
        if sp.prefixSpan.size = mod.prefixLen.toNat then
          Parser.settleLoop fuel (P.leavePrefix mod.hasDynamic)
        else P
      | .dynamicPhase =>
        if blockFinished P.blockF then Parser.settleLoop fuel P.leaveDynamic else P
      | .suffixPhase =>
        if sp.suffixSpan.size = mod.suffixLen.toNat then
          let Q := { P with moduleIndex := P.moduleIndex + 1 }
          if Q.moduleIndex = Q.modules.length then Q.completeEvent
          else Parser.settleLoop fuel (Q.enterModule Q.moduleIndex.toNat)
        else P

/-- A module takes at most three passes of `settle()`, so these are enough (log 15). -/
def Parser.settleFuel (P : Parser) : Nat := 3 * P.modules.length + 3

/-- `settle()` (R247). -/
def Parser.settle (P : Parser) : Parser := Parser.settleLoop P.settleFuel P

/-- `start_event(ev, w, len)` (R245). -/
def Parser.startEvent (ev : Int) (w : Word) (P : Parser) : Parser :=
  Parser.settle <| Parser.enterModule 0
    { P with
      eventIndex := ev
      moduleIndex := 0
      stackF := ⟨w, lengthOf w⟩
      blockF := .closed
      used := 0
      spans := [] }

/-! ## Idle (R241 to R244) -/

/-- A StackFrame header in Idle that raises an error counts as unused (R193e, R242). -/
def Parser.rejectStackFrame (o : ParseOutcome) (P : Parser) : Parser :=
  Parser.raise o (Parser.addUnused 1 P)

/-- `idle_stack_frame(w)` (R242), the checks in its order (R405). -/
def Parser.idleStackFrame (w : Word) (P : Parser) : Parser :=
  let Q := (Parser.advance 1 P).markTook
  let ev := eventOfHeader w
  if lengthOf w = 0 then Parser.bumpResult .emptyStackFrame Q
  else if ev < 0 ∨ (Q.rs.length : Int) ≤ ev then Q.rejectStackFrame .stackIndexOutOfRange
  else if ReadoutStructure.row Q.rs ev = [] then Q.rejectStackFrame .unexpectedNonEmptyStackFrame
  else if Q.blockF.left ≠ 0 then Q.rejectStackFrame .unexpectedOpenBlockOnNewEvent
  else Q.startEvent ev w

/-- `skip_frame(U, w)` (R243). -/
def Parser.skipFrame (w : Word) (P : Parser) : Parser :=
  let k := min (1 + payloadWords w) P.remaining
  Parser.advance k (Parser.addUnused k P).markSkipped

/-- `skip_word()` (R244). -/
def Parser.skipWord (P : Parser) : Parser :=
  Parser.advance 1 (Parser.addUnused 1 P).markSkipped

/-! ## System events (R260 to R262) -/

/-- What the scan of a chain of SystemEvent sections finds, in words from the first header. -/
inductive ChainScan where
  /-- The chain is whole and takes `n` words. -/
  | whole (n : Nat)
  /-- The chain is broken or does not fit; `n` words are given up. -/
  | dropped (n : Nat)
deriving DecidableEq, Repr

/-- The scan of `sysevent_chain` (R261): `ws` are the words from section header `i` on to the end of the
unit, `i` counted from the first header. Each pass takes a section, so `fuel` above `|ws|` is enough. -/
def scanChain : Nat → List Word → Nat → ChainScan
  | 0, _, i => .dropped i
  | fuel + 1, ws, i =>
    match ws with
    | [] => .dropped i
    | h :: tl =>
      if typeOf h ≠ 0xFA#8 then .dropped i
      else if tl.length < payloadWords h then .dropped (i + 1 + tl.length)
      else if hasContinue h then scanChain fuel (tl.drop (payloadWords h)) (i + 1 + payloadWords h)
      else .whole (i + 1 + payloadWords h)

/-- `drop(U, j)` for `j = rp + n` (R262). -/
def Parser.dropChain (n : Nat) (P : Parser) : Parser :=
  Parser.raise .systemEventDropped (Parser.advance n (Parser.addUnused n P))

/-- `sysevent_chain(U)` (R261), `w` being the SystemEvent header at the read position. -/
def Parser.sysEventChain (w : Word) (P : Parser) : Parser :=
  let ws := w :: P.ahead.drop 1
  match scanChain (ws.length + 1) ws 0 with
  | .whole n => Parser.advance n (Parser.emit (.systemEvent (ws.take n)) P).markTook
  | .dropped n => P.dropChain n

/-- `idle_step(U)` (R241), `w` being the word at the read position. -/
def Parser.idleStep (p : Params) (w : Word) (P : Parser) : Parser :=
  match frameKind p (typeOf w) with
  | .systemEvent => P.sysEventChain w
  | .stackFrame => P.idleStackFrame w
  | .superFrame => P.skipFrame w
  | .stackError => P.skipFrame w
  | .blockRead => P.skipWord
  | .stackContinuation => P.skipWord
  | .notRecognized => P.skipWord

/-! ## Inside a stack frame (R248 to R253) -/

/-- The size of one part of the current module grows by one word (R252). -/
def Span.grow (ph : Phase) (sp : Span) : Span :=
  match ph with
  | .prefixPhase => { sp with prefixSpan := { sp.prefixSpan with size := sp.prefixSpan.size + 1 } }
  | .dynamicPhase => { sp with dynamicSpan := { sp.dynamicSpan with size := sp.dynamicSpan.size + 1 } }
  | .suffixPhase => { sp with suffixSpan := { sp.suffixSpan with size := sp.suffixSpan.size + 1 } }

/-- One payload word of the open stack frame is consumed: `rp += 1; P.stackF.left -= 1` (R250, R252). -/
def Parser.consume (P : Parser) : Parser :=
  Parser.advance 1 { P with stackF := { P.stackF with left := P.stackF.left - 1 } }

/-- `copy(w, part)` (R252), the part being the one of phase `ph`. A full scratch buffer faults (R264);
`P.used` never exceeds the capacity (R29), and a value above it counts as full (log 16). -/
def Parser.copy (p : Params) (ph : Phase) (w : Word) (P : Parser) : Parser :=
  if p.scratchWords ≤ P.used then P.fault .unhandledException
  else
    let m := P.moduleIndex.toNat
    Parser.consume
      { P.setSpan m ((P.span m).grow ph) with
        scratch := Memory.write P.scratch P.used w
        used := P.used + 1 }

/-- `block_header(w)` (R250, R251). -/
def Parser.blockHeader (w : Word) (P : Parser) : Parser :=
  if typeOf w = 0xF5#8 then
    { P.consume with blockF := ⟨w, lengthOf w⟩ }
  else P.raise .unexpectedFrameType

/-- `dyn_data(w)` (R253). -/
def Parser.dynData (p : Params) (w : Word) (P : Parser) : Parser :=
  let Q := P.copy p .dynamicPhase w
  if 0 ≤ Q.eventIndex then { Q with blockF := { Q.blockF with left := Q.blockF.left - 1 } } else Q

/-- The word of `frame_step(U)` goes where the phase says (R248). -/
def Parser.frameWord (p : Params) (w : Word) (P : Parser) : Parser :=
  match P.phase with
  | .prefixPhase => P.copy p .prefixPhase w
  | .dynamicPhase => if P.blockF.left = 0 then P.blockHeader w else P.dynData p w
  | .suffixPhase => P.copy p .suffixPhase w

/-- `frame_step(U)` (R248). -/
def Parser.frameStep (p : Params) (w : Word) (P : Parser) : Parser :=
  let Q := P.frameWord p w
  if 0 ≤ Q.eventIndex then Q.settle else Q

/-! ## Between stack frames (R254) -/

/-- `await_step(U)` (R254), the tests in its order (R405). -/
def Parser.awaitStep (w : Word) (P : Parser) : Parser :=
  if typeOf w = 0xFA#8 then P.sysEventChain w
  else if typeOf w = 0xF9#8 then
    if stackNumOf w = stackNumOf P.stackF.hdr then
      Parser.advance 1 { P with stackF := ⟨w, lengthOf w⟩ }
    else P.raise .stackIndexChanged
  else P.raise .unexpectedFrameType

/-! ## The loop (R240, R263) -/

/-- The dispatch of R240 on the state of R31. -/
def Parser.dispatch (p : Params) (w : Word) (P : Parser) : Parser :=
  if P.eventIndex < 0 then P.idleStep p w
  else if P.stackF.left = 0 then P.awaitStep w
  else P.frameStep p w

/-- `raised <- 0`, at the start of an iteration (R240). -/
def Parser.clearRaised (P : Parser) : Parser := { P with call := { P.call with raised := false } }

/-- One iteration of `run_unit` on the word `w` at the read position (R240), with the non-progress guard
(R263). -/
def Parser.iteration (p : Params) (w : Word) (P : Parser) : Parser :=
  let Q := P.clearRaised.dispatch p w
  if Q.call.rp = P.call.rp ∧ Q.call.raised = false then Q.fault .bufferNotAdvancing else Q

/-- The loop of `run_unit` (R240): at most `fuel` iterations. -/
def Parser.runUnitLoop (p : Params) : Nat → Parser → Parser
  | 0, P => P
  | fuel + 1, P =>
    match P.call.unit[P.call.rp]? with
    | none => P
    | some w => Parser.runUnitLoop p fuel (P.iteration p w)

/-- `run_unit(U)` (R240). R263: at most `2 * |U|` iterations. -/
def Parser.runUnit (p : Params) (P : Parser) : Parser :=
  Parser.runUnitLoop p (2 * P.call.unit.length) P

end Sys2Proof.Machine
end

