-- ==== Sys2Proof/Machine/ParserEntry.lean ====
section
/-! DEFINITION. The parser's entry points (42_parser_entry.md): loss detection, units, packets, the call's
outcome, and the same call run one word at a time (log 11). -/

namespace Sys2Proof.Machine

/-! ## Loss detection (R182, R186) -/

/-- `P.bufferLoss += gap` (R182). -/
def Parser.addBufferLoss (gap : BitVec 32) (P : Parser) : Parser :=
  { P with counters := { P.counters with bufferLoss := P.counters.bufferLoss + gap.setWidth 64 } }

/-- `P.ethPacketLoss += gap` (R186). -/
def Parser.addPacketLoss (gap : BitVec 12) (P : Parser) : Parser :=
  { P with counters := { P.counters with ethPacketLoss := P.counters.ethPacketLoss + gap.setWidth 64 } }

/-- `buffer_seq_check(n)` (R182). -/
def Parser.bufferSeqCheck (n : BitVec 32) (P : Parser) : Parser :=
  let gap := seqGap P.lastBufferNumber n
  let Q := if P.bufSeqValid ∧ gap ≠ 0 then (P.addBufferLoss gap).clearEventState else P
  { Q with lastBufferNumber := n, bufSeqValid := true }

/-- `packet_seq_check(n)` (R186). -/
def Parser.packetSeqCheck (n : BitVec 12) (P : Parser) : Parser :=
  let gap := seqGap P.lastPacketNumber n
  let Q := if P.pktSeqValid ∧ gap ≠ 0 then (P.addPacketLoss gap).clearEventState else P
  { Q with lastPacketNumber := n, pktSeqValid := true }

/-! ## One input unit (R188, R189) -/

/-- The prologue of `process_unit(U, s)` (R188). -/
def Parser.openUnit (U : List Word) (s : Nat) (P : Parser) : Parser :=
  Parser.addUnused s
    { P with
      call := { P.call with
        unit := U
        rp := s
        unitFirst := none
        unitStartedIdle := decide (P.eventIndex < 0)
        unitTook := false
        unitSkipped := decide (0 < s)
        raised := false } }

/-- `callFirst <- o` where no error is recorded yet (R189). -/
def Parser.noteCallFirst (o : ParseOutcome) (P : Parser) : Parser :=
  { P with call := { P.call with callFirst := P.call.callFirst.or (some o) } }

/-- `unit_outcome()` (R189). -/
def Parser.unitOutcome (P : Parser) : Parser :=
  if P.call.unitFirst.isSome then P
  else if P.call.unitStartedIdle && !P.call.unitTook && P.call.unitSkipped then
    (P.noteCallFirst .noStackFrameFound).bumpResult .noStackFrameFound
  else if 0 ≤ P.eventIndex then P.bumpResult .needMoreInput
  else P.bumpResult .ok

/-- `process_unit(U, s)` (R188). -/
def Parser.processUnit (p : Params) (U : List Word) (s : Nat) (P : Parser) : Parser :=
  ((P.openUnit U s).runUnit p).unitOutcome

/-! ## The packet walk (R185) -/

/-- `walk_packets(W)` (R185) on the words not yet walked. A packet takes at least its two header words,
so `fuel` above `|W|` is enough (log 15). -/
def Parser.walkPackets (p : Params) : Nat → List Word → Parser → Parser
  | 0, _, P => P
  | fuel + 1, rest, P =>
    match rest with
    | [] => P
    | [_] => P.addUnused 1
    | w0 :: w1 :: tl =>
      let h := decodeEthHeader w0 w1
      let n := packetDataWords h.numDataWords tl
      let Q := P.packetSeqCheck h.packetNumber
      let s := startPosition Q.eventIndex h.headerPointer n
      Parser.walkPackets p fuel (tl.drop n) (Q.processUnit p (tl.take n) s)

/-! ## The call's outcome (R181, R190) -/

/-- `call_begin()` (R181). -/
def Parser.callBegin (P : Parser) : Parser := { P with call := CallState.idle }

/-- `call_outcome()` (R190). -/
def Parser.callOutcome (P : Parser) : ParseOutcome :=
  match P.call.callFirst with
  | some o => o
  | none => if 0 ≤ P.eventIndex then .needMoreInput else .ok

/-- The end of a call: its bookkeeping is gone (R33). -/
def Parser.endCall (P : Parser) : Parser := { P with call := CallState.idle }

/-- What the two parse calls do before any word is parsed (R180, R184). -/
def Parser.enterCall (n : BitVec 32) (W : List Word) (P : Parser) : Parser :=
  (P.callBegin.addProcessed W.length).bufferSeqCheck n

/-- `parse_usb_buffer(n, W)` (R180), up to the return. -/
def Parser.parseUsb (p : Params) (n : BitVec 32) (W : List Word) (P : Parser) : Parser :=
  (P.enterCall n W).processUnit p W 0

/-- `parse_eth_buffer(n, W)` (R184), up to the return. -/
def Parser.parseEth (p : Params) (n : BitVec 32) (W : List Word) (P : Parser) : Parser :=
  (P.enterCall n W).walkPackets p (W.length + 1) W

/-- `end_of_stream()` (R194): the outcome it returns. -/
def Parser.endOfStreamOutcome (P : Parser) : ParseOutcome :=
  if 0 ≤ P.eventIndex then .truncatedInput else .ok

/-- `end_of_stream()` (R194): the state it leaves. -/
def Parser.endOfStream (P : Parser) : Parser :=
  if 0 ≤ P.eventIndex then (P.bumpResult .truncatedInput).clearEventState else P

/-! ## The same call, one word at a time (log 11) -/

/-- The call stands at stage `g`. -/
def Parser.atStage (g : CallStage) (P : Parser) : Parser := { P with call := { P.call with stage := g } }

/-- Between two packets: the next packet header is awaited, or, with fewer than two words left, those
words count as unused (R185) and the walk is over. `none` is the end of the walk. -/
def Parser.nextPacket (rest : List Word) (P : Parser) : Parser × Bool :=
  match rest with
  | [] => (P, true)
  | [_] => (P.addUnused 1, true)
  | _ :: _ :: _ => (P.atStage (.ethHeader0 rest), false)

/-- After a word of a unit, or after a unit was opened: while words are left nothing happens; at the end
of the unit its outcome is formed (R189) and the call goes on to the next packet or is over. The second
part says that the call is over. -/
def Parser.unitProgress (P : Parser) : Parser × Bool :=
  if P.call.rp < P.call.unit.length then (P, false)
  else
    match P.call.stage with
    | .usbUnit => (P.unitOutcome, true)
    | .ethUnit rest => P.unitOutcome.nextPacket rest
    | .noCall => (P, false)
    | .ethHeader0 _ => (P, false)
    | .ethHeader1 _ _ => (P, false)

/-- `parse_usb_buffer` begun: the unit is open at its first word. -/
def Parser.beginUsb (n : BitVec 32) (W : List Word) (P : Parser) : Parser × Bool :=
  (((P.enterCall n W).openUnit W 0).atStage .usbUnit).unitProgress

/-- `parse_eth_buffer` begun: the first packet header is awaited. -/
def Parser.beginEth (n : BitVec 32) (W : List Word) (P : Parser) : Parser × Bool :=
  (P.enterCall n W).nextPacket W

/-- The word `w` of the open unit: one iteration of the loop (R240). -/
def Parser.unitWord (p : Params) (w : Word) (P : Parser) : Parser × Bool :=
  (P.iteration p w).unitProgress

/-- The first word of a packet header (R185, R186): the packet number is checked, the word kept. -/
def Parser.ethWord0 (w : Word) (rest : List Word) (P : Parser) : Parser :=
  (P.packetSeqCheck (field w 16 12)).atStage (.ethHeader1 w (rest.drop 1))

/-- The second word of a packet header (R185, R187, R188): the start position is chosen and the unit of
the packet's data words opened. `w0` is the packet's first header word; `rest` begins with this word. -/
def Parser.ethWord1 (w0 : Word) (headerPointer : BitVec 12) (rest : List Word) (P : Parser) : Parser × Bool :=
  let tl := rest.drop 1
  let n := packetDataWords (field w0 0 13) tl
  let s := startPosition P.eventIndex headerPointer n
  ((P.openUnit (tl.take n) s).atStage (.ethUnit (tl.drop n))).unitProgress

/-- The header word the open call reads next, and the position it stands at (R75, R110). -/
def Parser.nextWord (P : Parser) : Option (Position × Word) :=
  match P.call.stage with
  | .noCall => none
  | .usbUnit => P.call.unit[P.call.rp]?.map (fun w => (.frame, w))
  | .ethUnit _ => P.call.unit[P.call.rp]?.map (fun w => (.frame, w))
  | .ethHeader0 rest => rest.head?.map (fun w => (.ethWord0, w))
  | .ethHeader1 _ rest => rest.head?.map (fun w => (.ethWord1, w))

/-- The state after a word of an open call: if the call is over it returns its outcome (R190). -/
def State.afterWord (s : State) (r : Parser × Bool) : State :=
  if r.2 then (s.withParser r.1.endCall).withResult (.outcome r.1.callOutcome)
  else s.withParser r.1

end Sys2Proof.Machine
end

