-- ==== Sys2Proof/Machine/Frames.lean ====
section
/-! DEFINITION. The header words as instructions. A frame header is read by the parser where a unit is
open (R240), and by the reader at the head of the command FIFO where no parse call runs (R308, R313).
The two ETH words are read at a packet header (R185). -/

namespace Sys2Proof.Machine

/-- The word `w`, read as a frame word, where it stands: an iteration of the parser's loop in an open unit,
the reader's step at the FIFO head where no parse call runs. Elsewhere no frame is read (R110; log 12). -/
def frameWordStep (w : Word) (s : State) : Host.Outcome State Fault Refusal :=
  if s.parser.callOpen then
    if s.parser.nextWord = some (.frame, w) then .next (s.afterWord (s.parser.unitWord s.params w))
    else .refused .notAtThisPosition
  else if s.engine.fifo.head? = some w then .next (s.withEngine (s.engine.readerWord s.params w))
  else .refused .notAtThisPosition

/-- STACK: in Idle it starts an event (R242); between stack frames it is an error (R254); inside a stack
frame it is data or a wrong header (R248, R251). On the command pipe it opens a reply chain (R311). -/
def execStack (flags stackNum : BitVec 4) (ctrlId : BitVec 3) (length : BitVec 13) (s : State) :
    Host.Outcome State Fault Refusal :=
  frameWordStep (packHeader 0xF3#8 flags (stackNum ++ ctrlId) length) s

/-- CONT: between stack frames it continues the event (R254); in Idle it is skipped (R244). On the command
pipe it extends a reply chain (R313) or is skipped (R308). -/
def execCont (flags stackNum : BitVec 4) (ctrlId : BitVec 3) (length : BitVec 13) (s : State) :
    Host.Outcome State Fault Refusal :=
  frameWordStep (packHeader 0xF9#8 flags (stackNum ++ ctrlId) length) s

/-- BLOCK: in the Dynamic phase it opens a block (R250); in Idle it is skipped (R244). On the command pipe
it is skipped or breaks a chain (R308, R313). -/
def execBlock (flags stackNum : BitVec 4) (ctrlId : BitVec 3) (length : BitVec 13) (s : State) :
    Host.Outcome State Fault Refusal :=
  frameWordStep (packHeader 0xF5#8 flags (stackNum ++ ctrlId) length) s

/-- SUPER: on the command pipe a super reply (R310); by the parser in Idle it is skipped with its payload
(R243). -/
def execSuper (flags stackNum : BitVec 4) (ctrlId : BitVec 3) (length : BitVec 13) (s : State) :
    Host.Outcome State Fault Refusal :=
  frameWordStep (packHeader s.params.typeSuper flags (stackNum ++ ctrlId) length) s

/-- STKERR: on the command pipe it is counted (R315); by the parser in Idle it is skipped with its payload
(R243). -/
def execStkerr (flags stackNum : BitVec 4) (ctrlId : BitVec 3) (length : BitVec 13) (s : State) :
    Host.Outcome State Fault Refusal :=
  frameWordStep (packHeader s.params.typeStackErr flags (stackNum ++ ctrlId) length) s

/-- SYSEV: in Idle and between stack frames its chain is delivered or dropped (R260 to R262); inside a
stack frame it is data. On the command pipe it is skipped or breaks a chain (R308, R313). -/
def execSysev (continueBit : BitVec 1) (ctrlId : BitVec 3) (subtype : BitVec 7) (length : BitVec 13)
    (s : State) : Host.Outcome State Fault Refusal :=
  frameWordStep (packSysEventHeader continueBit ctrlId subtype length) s

/-- The words of an ETH buffer from the packet header word read next on (R185). -/
def Parser.packetRest (P : Parser) : List Word :=
  match P.call.stage with
  | .ethHeader0 rest => rest
  | .ethHeader1 _ rest => rest
  | .noCall => []
  | .usbUnit => []
  | .ethUnit _ => []

/-- The first header word of the packet whose second one is read next (R185). -/
def Parser.packetWord0 (P : Parser) : Word :=
  match P.call.stage with
  | .ethHeader1 w0 _ => w0
  | .ethHeader0 _ => 0
  | .noCall => 0
  | .usbUnit => 0
  | .ethUnit _ => 0

/-- ETH0: the packet number is checked for loss (R186); the word is kept for the packet's second word.
It is read only as the first word of a packet header (R110; log 12). -/
def execEth0 (packetChannel : BitVec 4) (packetNumber : BitVec 12) (ignored : BitVec 3)
    (numDataWords : BitVec 13) (s : State) : Host.Outcome State Fault Refusal :=
  let w := packEth0 packetChannel packetNumber ignored numDataWords
  if s.parser.nextWord = some (.ethWord0, w) then
    .next (s.withParser (s.parser.ethWord0 w s.parser.packetRest))
  else .refused .notAtThisPosition

/-- ETH1: the start position is chosen (R187) and the packet's unit opened (R188); the timestamp is not
used (R185). It is read only as the second word of a packet header (R110; log 12). -/
def execEth1 (timestamp : BitVec 20) (headerPointer : BitVec 12) (s : State) :
    Host.Outcome State Fault Refusal :=
  if s.parser.nextWord = some (.ethWord1, packEth1 timestamp headerPointer) then
    .next (s.afterWord (s.parser.ethWord1 s.parser.packetWord0 headerPointer s.parser.packetRest))
  else .refused .notAtThisPosition

end Sys2Proof.Machine
end

