-- ==== Sys2Proof/Machine/Generator.lean ====
section
/-! DEFINITION. The frame generator, the reference stimulus (45_frame_generator.md): pure. -/

namespace Sys2Proof.Machine

/-- The generator's variables (R360): the words written, the payload words of the open frame, and
whether the next frame is the event's first. -/
structure GenState where
  out : List Word
  payload : List Word
  first : Bool
deriving DecidableEq, Repr

/-- What stays the same through one event (R360): its index, `ctrlId` and the frame limit. -/
structure GenEnv where
  ev : Nat
  ctrlId : BitVec 3
  frameMax : Nat
deriving DecidableEq, Repr

/-- `flush(c)` (R360): one stack frame holding the payload words. -/
def GenState.flush (env : GenEnv) (c : Bool) (g : GenState) : GenState :=
  let t := if g.first then 0xF3 else 0xF9
  let id := (env.ev + 1) * 8 + env.ctrlId.toNat
  { out := g.out ++ [encodeHeader t (if c then 8 else 0) id g.payload.length] ++ g.payload
    payload := []
    first := false }

/-- `put(w)` (R360). -/
def GenState.put (env : GenEnv) (w : Word) (g : GenState) : GenState :=
  let h := if g.payload.length = env.frameMax then g.flush env true else g
  { h with payload := h.payload ++ [w] }

/-- `put` for each word, in order (R360). -/
def GenState.putAll (env : GenEnv) : List Word → GenState → GenState
  | [], g => g
  | w :: ws, g => GenState.putAll env ws (g.put env w)

/-- The loop over a dynamic part's words not yet written (R360); each pass but the last takes at least
one word, so `fuel` above their number is enough (log 15). -/
def GenState.putDynamic (env : GenEnv) : Nat → List Word → GenState → GenState
  | 0, _, g => g
  | fuel + 1, r, g =>
    let h := if env.frameMax - g.payload.length < 2 then g.flush env true else g
    let n := min r.length (env.frameMax - h.payload.length - 1)
    let more := decide (n < r.length)
    let k : GenState :=
      { h with payload := h.payload ++ [encodeHeader 0xF5 (if more then 8 else 0) 0 n] ++ r.take n }
    if more then GenState.putDynamic env fuel (r.drop n) k else k

/-- One module: prefix, dynamic part if it has one, suffix (R360). -/
def GenState.putModule (env : GenEnv) (m : GenModule) (g : GenState) : GenState :=
  let a := g.putAll env m.prefixWords
  let b := match m.dynamicWords with
    | none => a
    | some r => a.putDynamic env (r.length + 1) r
  b.putAll env m.suffixWords

/-- The modules in order (R360). -/
def GenState.putModules (env : GenEnv) : List GenModule → GenState → GenState
  | [], g => g
  | m :: ms, g => GenState.putModules env ms (g.putModule env m)

/-- `generate_event(ev, ctrlId, mods, M)` (R360). -/
def generateEvent (ev : Nat) (ctrlId : BitVec 3) (mods : List GenModule) (frameMax : Nat) : List Word :=
  let env : GenEnv := ⟨ev, ctrlId, frameMax⟩
  ((GenState.putModules env mods ⟨[], [], true⟩).flush env false).out

/-- The sections of a system event from payload words `pay` on (R363): pieces of `m` words, the last one
not longer; every section but the last has Continue. `fuel` above `|pay|` is enough for `m ≥ 1`. -/
def systemEventSections (k t : Nat) (m : Nat) : Nat → List Word → List Word
  | 0, _ => []
  | fuel + 1, pay =>
    if m < pay.length then
      encodeSysEventHeader 1 k t m :: (pay.take m ++ systemEventSections k t m fuel (pay.drop m))
    else encodeSysEventHeader 0 k t pay.length :: pay

/-- `generate_system_event(hdr, pay, M)` (R363). -/
def generateSystemEvent (hdr : Word) (pay : List Word) (m : Nat) : List Word :=
  let h := decodeSysEventHeader hdr
  systemEventSections h.ctrlId.toNat h.subtype.toNat m (pay.length + 1) pay

/-- `generate_event` (R360); the frame limit is 2 to 8191 and the event 0 to 14. -/
def execGenerateEvent (ev : BitVec 4) (ctrlId : BitVec 3) (mods : List GenModule) (frameMax : BitVec 13)
    (s : State) : Host.Outcome State Fault Refusal :=
  if wellFormed s.params (.generateEvent ev ctrlId mods frameMax) then
    .next (s.withResult (.words (generateEvent ev.toNat ctrlId mods frameMax.toNat)))
  else .refused .operandOutOfRange

/-- `generate_system_event` (R363); the frame limit is 2 to 8191. -/
def execGenerateSystemEvent (hdr : Word) (pay : List Word) (frameMax : BitVec 13) (s : State) :
    Host.Outcome State Fault Refusal :=
  if wellFormed s.params (.generateSystemEvent hdr pay frameMax) then
    .next (s.withResult (.words (generateSystemEvent hdr pay frameMax.toNat)))
  else .refused .operandOutOfRange

end Sys2Proof.Machine
end

