-- ==== Sys2Proof/Machine/Session.lean ====
section
/-! DEFINITION. The parser's operations as instructions (R180, R184, R194, R415, R450), and the two ways
a buffer is fed. -/

namespace Sys2Proof.Machine

/-- An operation of the parser: refused while a parse call runs (R455, U6; log 17). -/
def State.exclusive (s : State) (r : Host.Outcome State Fault Refusal) : Host.Outcome State Fault Refusal :=
  if s.parser.callOpen then .refused .overlapsParseCall else r

/-- A parse operation: not available without a session (R450), refused while a call runs (R455). -/
def State.inSession (s : State) (r : Host.Outcome State Fault Refusal) : Host.Outcome State Fault Refusal :=
  s.exclusive (if s.parser.session then r else .refused .noSession)

/-! ## Several sessions (R414; log 24) -/

/-- The sessions that stand beside a new one: the present one, if there is one, and the others. -/
def State.sessionsKept (s : State) : List Parser :=
  if s.parser.session then s.parser :: s.otherSessions else s.otherSessions

/-- The feeder turns to the `k`-th other session; the one it leaves takes that place, unchanged. Without such a
session nothing happens (log 7). -/
def State.turnToSession (s : State) (k : Nat) : State :=
  match s.otherSessions[k]? with
  | none => s
  | some P => { s.withParser P with otherSessions := s.otherSessions.set k s.parser }

/-! ## The instructions -/

/-- `session_reset` (R450) creates a session: the table must be one the builder can produce (R163). The session
before it stays beside the new one, since sessions share no state (R414; log 24). -/
def execSessionReset (rs : ReadoutStructure) (s : State) : Host.Outcome State Fault Refusal :=
  s.exclusive
    (if wellFormed s.params (.sessionReset rs) then
      .next { s.withParser (.afterReset true rs) with otherSessions := s.sessionsKept }
    else .refused .operandOutOfRange)

/-- The end of an atomic parse call: it returns its outcome (R190). -/
def State.returnCall (s : State) (P : Parser) : State :=
  (s.withParser P.endCall).withResult (.outcome P.callOutcome)

/-- `parse_usb_buffer` (R180), one atomic transition (R197). -/
def execParseUsbBuffer (bufferNumber : BitVec 32) (words : List Word) (s : State) :
    Host.Outcome State Fault Refusal :=
  s.inSession (.next (s.returnCall (s.parser.parseUsb s.params bufferNumber words)))

/-- `parse_eth_buffer` (R184), one atomic transition (R197). -/
def execParseEthBuffer (bufferNumber : BitVec 32) (words : List Word) (s : State) :
    Host.Outcome State Fault Refusal :=
  s.inSession (.next (s.returnCall (s.parser.parseEth s.params bufferNumber words)))

/-- `end_of_stream` (R194). -/
def execEndOfStream (s : State) : Host.Outcome State Fault Refusal :=
  s.inSession
    (.next ((s.withParser s.parser.endOfStream).withResult (.outcome s.parser.endOfStreamOutcome)))

/-- `read_parser_counters` (R415); not during a call (R455). -/
def execReadParserCounters (s : State) : Host.Outcome State Fault Refusal :=
  s.exclusive (.next (s.withResult (.parserCounters s.parser.counters)))

/-- The feeder begins a USB call that is then run one word a step (log 11). -/
def feedUsb (bufferNumber : BitVec 32) (words : List Word) (s : State) : Host.Outcome State Fault Refusal :=
  s.inSession (.next (s.afterWord (s.parser.beginUsb bufferNumber words)))

/-- The feeder begins an ETH call that is then run one word a step (log 11). -/
def feedEth (bufferNumber : BitVec 32) (words : List Word) (s : State) : Host.Outcome State Fault Refusal :=
  s.inSession (.next (s.afterWord (s.parser.beginEth bufferNumber words)))

end Sys2Proof.Machine
end

