-- ==== Sys2Proof/Machine/Dispatch.lean ====
section
/-! DEFINITION. The dispatch: one arm per instruction, each one call of its meaning. -/

namespace Sys2Proof.Machine

def exec (i : Instr) (s : State) : Host.Outcome State Fault Refusal :=
  match i with
  | .stack flags stackNum ctrlId length => Sys2Proof.Machine.execStack flags stackNum ctrlId length s
  | .cont flags stackNum ctrlId length => Sys2Proof.Machine.execCont flags stackNum ctrlId length s
  | .block flags stackNum ctrlId length => Sys2Proof.Machine.execBlock flags stackNum ctrlId length s
  | .super flags stackNum ctrlId length => Sys2Proof.Machine.execSuper flags stackNum ctrlId length s
  | .stkerr flags stackNum ctrlId length => Sys2Proof.Machine.execStkerr flags stackNum ctrlId length s
  | .sysev continueBit ctrlId subtype length => Sys2Proof.Machine.execSysev continueBit ctrlId subtype length s
  | .eth0 packetChannel packetNumber ignored numDataWords => Sys2Proof.Machine.execEth0 packetChannel packetNumber ignored numDataWords s
  | .eth1 timestamp headerPointer => Sys2Proof.Machine.execEth1 timestamp headerPointer s
  | .decodeHeader w => Sys2Proof.Machine.execDecodeHeader w s
  | .encodeHeader type flags id length => Sys2Proof.Machine.execEncodeHeader type flags id length s
  | .isGoodHeader w => Sys2Proof.Machine.execIsGoodHeader w s
  | .frameKind type => Sys2Proof.Machine.execFrameKind type s
  | .decodeSyseventHeader w => Sys2Proof.Machine.execDecodeSyseventHeader w s
  | .encodeSyseventHeader continueBit ctrlId subtype length => Sys2Proof.Machine.execEncodeSyseventHeader continueBit ctrlId subtype length s
  | .hasContinue w => Sys2Proof.Machine.execHasContinue w s
  | .decodeEthHeader w0 w1 => Sys2Proof.Machine.execDecodeEthHeader w0 w1 s
  | .buildReadoutStructure programs => Sys2Proof.Machine.execBuildReadoutStructure programs s
  | .sessionReset rs => Sys2Proof.Machine.execSessionReset rs s
  | .parseUsbBuffer bufferNumber words => Sys2Proof.Machine.execParseUsbBuffer bufferNumber words s
  | .parseEthBuffer bufferNumber words => Sys2Proof.Machine.execParseEthBuffer bufferNumber words s
  | .endOfStream => Sys2Proof.Machine.execEndOfStream s
  | .readParserCounters => Sys2Proof.Machine.execReadParserCounters s
  | .engineConstruct => Sys2Proof.Machine.execEngineConstruct s
  | .submitSuperTransaction ref words => Sys2Proof.Machine.execSubmitSuperTransaction ref words s
  | .submitStackTransaction ref words => Sys2Proof.Machine.execSubmitStackTransaction ref words s
  | .rxWords ws => Sys2Proof.Machine.execRxWords ws s
  | .readerStep => Sys2Proof.Machine.execReaderStep s
  | .rxTimeout => Sys2Proof.Machine.execRxTimeout s
  | .rxDisconnect => Sys2Proof.Machine.execRxDisconnect s
  | .requestStop => Sys2Proof.Machine.execRequestStop s
  | .clearStackErrorCounters => Sys2Proof.Machine.execClearStackErrorCounters s
  | .readEngineCounters => Sys2Proof.Machine.execReadEngineCounters s
  | .generateEvent ev ctrlId mods frameMax => Sys2Proof.Machine.execGenerateEvent ev ctrlId mods frameMax s
  | .generateSystemEvent hdr pay frameMax => Sys2Proof.Machine.execGenerateSystemEvent hdr pay frameMax s

end Sys2Proof.Machine
end

