-- ==== Sys2Proof/Machine/Fetch.lean ====
section
/-! DEFINITION. What the step fetches (log 5, 6, 11): the next word of the open parse call, else the next
scheduled transition, else the reader's own step. -/

namespace Sys2Proof.Machine

/-- What the machine does next. -/
inductive Fetched where
  /-- The open call reads the header word `w` at a position (R75, R110). -/
  | word (pos : Position) (w : Word)
  /-- The environment's next transition, and the schedule after it (R300). -/
  | event (e : Event) (rest : List Event)
  /-- Nothing is scheduled: the reader goes on by itself (R300, R323). -/
  | readerRuns
deriving DecidableEq, Repr

/-- An open parse call goes on before any other agent (R11, R197); then the schedule is followed. -/
def State.fetch (s : State) : Fetched :=
  match s.parser.nextWord with
  | some (pos, w) => .word pos w
  | none =>
    match s.schedule with
    | e :: rest => .event e rest
    | [] => .readerRuns

/-- A unit word that is no header of a recognised type stops nothing: the loop's iteration skips it or
copies it like any other word (R111, R244, R248). -/
def unrecognisedWord (w : Word) (s : State) : Host.Outcome State Fault Refusal := frameWordStep w s

/-- The schedule replaced. -/
def State.withSchedule (s : State) (es : List Event) : State := { s with schedule := es }

/-- A frame whose header is `w` and whose payload words are 0. -/
def zeroFrame (w : Word) : List Word := w :: List.replicate (payloadWords w) 0

/-- A USB call open at the first word of the unit `U`, in a session (log 5). -/
def State.openUsbUnit (s : State) (U : List Word) : State :=
  s.withParser (Parser.atStage .usbUnit (Parser.openUnit U 0 { s.parser.callBegin with session := true }))

end Sys2Proof.Machine
end

