-- ==== Sys2Proof/Machine/Step.lean ====
section
/-! DEFINITION. The step: fetch, decode, execute. -/

namespace Sys2Proof.Machine

/-- One step: the next word of the open parse call, decoded and executed; else the next scheduled
transition; else the reader's step (log 5, 6). -/
def step (s : State) : Host.Outcome State Fault Refusal :=
  match s.fetch with
  | .word pos w =>
    match decodeAt s.params pos w with
    | .ok i => exec i s
    | .error _ => unrecognisedWord w s
  | .event e rest =>
    match e with
    | .op i => exec i (s.withSchedule rest)
    | .caller c writeOk => .next ((s.withSchedule rest).callerStep c writeOk)
    | .turnToEngine k => .next ((s.withSchedule rest).turnToEngine k)
    | .turnToSession k => .next ((s.withSchedule rest).turnToSession k)
    | .feedUsb n ws => feedUsb n ws (s.withSchedule rest)
    | .feedEth n ws => feedEth n ws (s.withSchedule rest)
  | .readerRuns => exec .readerStep s

/-- The frame header word `w` (its payload words 0) as the first words of an open USB unit, so that the
next step fetches it (log 5). -/
def State.withFetchWord (s : State) (nbits w : Nat) : State := s.openUsbUnit (zeroFrame (tableWord nbits w))

end Sys2Proof.Machine
end

