-- ==== Sys2Proof/Safety.lean ====
section
/-! DEFINITION. What a good state is: the invariants the rules give the parser, its scratch layout, the
correlator and its callers, in the terms the statements use. -/

namespace Sys2Proof.Machine

/-! ## Where a header word stands -/

/-- The instruction has a header word: it is one of the eight rows of R100 and R107 to R109. -/
def isHeaderWord : Instr → Bool
  | .stack _ _ _ _ => true
  | .cont _ _ _ _ => true
  | .block _ _ _ _ => true
  | .super _ _ _ _ => true
  | .stkerr _ _ _ _ => true
  | .sysev _ _ _ _ => true
  | .eth0 _ _ _ _ => true
  | .eth1 _ _ => true
  | _ => false

/-- The open parse call reads the header word of `i` next, at the position that selects it (R75, R110). -/
abbrev State.Reads (s : State) (i : Instr) : Prop :=
  (encode s.params i).map (fun w => some (positionOf i, w)) = some s.parser.nextWord

/-- No parse call is open, and the header word of `i` is the head of the command FIFO (R308, R313). -/
abbrev State.AtHead (s : State) (i : Instr) : Prop :=
  s.parser.callOpen = false ∧ (encode s.params i).map some = some s.engine.fifo.head?

/-! ## The parser (R23, R24, R31, R32) -/

/-- The registers of Idle (R31, R32). -/
structure Parser.IdleRegisters (P : Parser) : Prop where
  eventIndex : P.eventIndex = -1
  moduleIndex : P.moduleIndex = -1
  phase : P.phase = .prefixPhase
  stackF : P.stackF = .closed
  blockF : P.blockF = .closed
  spans : P.spans = []
  used : P.used = 0
  scratch : P.scratch = []

/-- The current module is not complete in its phase: `settle()` has nothing left to do (R31, R247). -/
def Parser.Unsettled (P : Parser) (mod : ModuleShape) : Prop :=
  match P.phase with
  | .prefixPhase => (P.span P.moduleIndex.toNat).prefixSpan.size < mod.prefixLen.toNat
  | .dynamicPhase => mod.hasDynamic = true ∧ blockFinished P.blockF = false
  | .suffixPhase => (P.span P.moduleIndex.toNat).suffixSpan.size < mod.suffixLen.toNat

/-- The registers of an event in progress (R23, R24, R31): a row of the table and a module of it are
selected, the module is not complete, and the open stack frame belongs to the event. -/
structure Parser.EventRegisters (P : Parser) : Prop where
  event : 0 ≤ P.eventIndex ∧ P.eventIndex < P.rs.length
  modIdx : 0 ≤ P.moduleIndex ∧ P.moduleIndex < P.modules.length
  unsettled : ∃ mod, P.currentModule = some mod ∧ P.Unsettled mod
  stackType : typeOf P.stackF.hdr = 0xF3#8 ∨ typeOf P.stackF.hdr = 0xF9#8
  stackNum : ((stackNumOf P.stackF.hdr).toNat : Int) = P.eventIndex + 1
  blockType : P.blockF = .closed ∨ typeOf P.blockF.hdr = 0xF5#8

/-! ## The scratch layout (R78, R266) -/

/-- The end of a module's data: its three sizes from its start. -/
def Span.total (sp : Span) : Nat := sp.prefixSpan.size + sp.dynamicSpan.size + sp.suffixSpan.size

/-- The three parts lie one after another (R258, R266). -/
def Span.contiguous (sp : Span) : Prop :=
  sp.prefixSpan.off + sp.prefixSpan.size = sp.dynamicSpan.off ∧
  sp.dynamicSpan.off + sp.dynamicSpan.size = sp.suffixSpan.off

/-- A complete module (R266): its sizes are those of the table and its parts are contiguous. -/
def Span.completeFor (sp : Span) (mod : ModuleShape) : Prop :=
  sp.prefixSpan.size = mod.prefixLen.toNat ∧ sp.suffixSpan.size = mod.suffixLen.toNat ∧
  (mod.hasDynamic = false → sp.dynamicSpan.size = 0) ∧ sp.contiguous

/-- The layout of the current module (R266): the part named by the phase ends at `used`, the parts before
it are contiguous and full, and the parts after it are empty. -/
def Parser.currentLayout (P : Parser) (mod : ModuleShape) : Prop :=
  let sp := P.span P.moduleIndex.toNat
  match P.phase with
  | .prefixPhase =>
    sp.prefixSpan.off + sp.prefixSpan.size = P.used ∧ sp.dynamicSpan.size = 0 ∧ sp.suffixSpan.size = 0
  | .dynamicPhase =>
    sp.prefixSpan.size = mod.prefixLen.toNat ∧
    sp.prefixSpan.off + sp.prefixSpan.size = sp.dynamicSpan.off ∧
    sp.dynamicSpan.off + sp.dynamicSpan.size = P.used ∧ sp.suffixSpan.size = 0
  | .suffixPhase =>
    sp.prefixSpan.size = mod.prefixLen.toNat ∧
    (mod.hasDynamic = false → sp.dynamicSpan.size = 0) ∧ sp.contiguous ∧
    sp.suffixSpan.off + sp.suffixSpan.size = P.used

/-- Where module `m` starts: the sum of the sizes of the modules before it (R266). -/
def Parser.moduleStart (P : Parser) : Nat → Nat
  | 0 => 0
  | m + 1 => P.moduleStart m + (P.span m).total

/-- The layout invariant of R266, for an event in progress. -/
structure Parser.Layout (P : Parser) : Prop where
  before : ∀ m, m < P.moduleIndex.toNat → ∀ mod, P.modules[m]? = some mod → (P.span m).completeFor mod
  starts : ∀ m, m ≤ P.moduleIndex.toNat → (P.span m).prefixSpan.off = P.moduleStart m
  current : ∀ mod, P.currentModule = some mod → P.currentLayout mod
  used : P.used = P.moduleStart (P.moduleIndex.toNat + 1)

/-- The words of the event in progress stand at the addresses 0 to `used` - 1, and no other word is listed
(R73, R78); `used` is at most the capacity (R29). -/
structure Parser.ScratchInUse (p : Params) (P : Parser) : Prop where
  addresses : P.scratch.map Prod.fst = List.range P.used
  capacity : P.used ≤ p.scratchWords

/-- Every table and the scratch memory in canonical form (log 13, 14). -/
def Parser.Canonical (P : Parser) : Prop :=
  Memory.wf P.scratch ∧ Sparse.wf Span.zero P.spans ∧ Sparse.wf ModuleStats.zero P.counters.moduleStats

/-- The position of the open call (R21, R185): a unit has words left, a packet header has its words. -/
def Parser.CallInv (P : Parser) : Prop :=
  match P.call.stage with
  | .noCall => P.call = .idle
  | .usbUnit => P.call.rp < P.call.unit.length ∧ P.session = true
  | .ethUnit _ => P.call.rp < P.call.unit.length ∧ P.session = true
  | .ethHeader0 rest => 2 ≤ rest.length ∧ P.session = true
  | .ethHeader1 _ rest => 1 ≤ rest.length ∧ P.session = true

/-- What holds of the parser between two steps. -/
structure Parser.Inv (p : Params) (P : Parser) : Prop where
  table : ReadoutStructure.legal p P.rs = true
  idle : P.eventIndex < 0 → P.IdleRegisters
  event : 0 ≤ P.eventIndex → P.EventRegisters ∧ P.Layout
  scratch : P.ScratchInUse p
  canonical : P.Canonical
  call : P.CallInv

/-! ## The correlator (R45 to R50, R79, R320) -/

/-- A slot holds a result of at most `RESP_MAX_WORDS` words (R45). -/
def Slot.bounded {w : Nat} (n : Nat) : Slot w → Prop
  | .free => True
  | .pending _ => True
  | .fulfilled (.ok ws) => ws.length ≤ n
  | .fulfilled (.err _) => True

/-- What holds of the correlator between two steps. -/
structure Engine.Inv (p : Params) (T : Engine) : Prop where
  fifo : T.fifo.length ≤ p.cmdFifoWords
  chain : T.chainWords.length ≤ p.respMaxWords
  notCollecting : T.collecting = false → T.chainWords = [] ∧ T.chainOverflow = false
  notBroken : T.chainBroken = false
  stopped : T.running = false →
    T.fifo = [] ∧ T.collecting = false ∧ T.slotSuper.isPending = false ∧ T.slotStack.isPending = false
  superBounded : T.slotSuper.bounded p.respMaxWords
  stackBounded : T.slotStack.bounded p.respMaxWords
  hist : Sparse.wf 0 T.stackErrors.hist
  histStacks : ∀ e ∈ T.stackErrors.hist, e.1 < histKey 8 0 0

/-! ## The callers (R305) -/

/-- The caller is in Writing or WaitDone (R305). -/
def Caller.inFlight (c : Caller) : Bool :=
  match c.step with
  | .start => false
  | .waitSlot => false
  | .writing => true
  | .waitDone => true
  | .done _ => false

/-- The caller is of kind Super (R51). -/
def Caller.isSuper (c : Caller) : Bool :=
  match c.request with
  | .super _ => true
  | .stack _ => false

/-- The super callers in flight. -/
def Correlator.superInFlight (c : Correlator) : List Caller := c.callers.filter (fun a => a.isSuper && a.inFlight)

/-- The stack callers in flight. -/
def Correlator.stackInFlight (c : Correlator) : List Caller := c.callers.filter (fun a => !a.isSuper && a.inFlight)

/-- Mutual exclusion (R305): the super slot is free exactly when no super caller is in flight; otherwise
there is one, and a pending slot holds its reference. -/
def Correlator.superExclusion (c : Correlator) : Prop :=
  match c.engine.slotSuper with
  | .free => c.superInFlight = []
  | .pending ref => ∃ a, c.superInFlight = [a] ∧ a.request = .super ref
  | .fulfilled _ => ∃ a, c.superInFlight = [a]

/-- Mutual exclusion (R305) for the stack slot. -/
def Correlator.stackExclusion (c : Correlator) : Prop :=
  match c.engine.slotStack with
  | .free => c.stackInFlight = []
  | .pending ref => ∃ a, c.stackInFlight = [a] ∧ a.request = .stack ref
  | .fulfilled _ => ∃ a, c.stackInFlight = [a]

/-! ## Every session and every engine (R414) -/

/-- The present session and the others. -/
def State.sessions (s : State) : List Parser := s.parser :: s.otherSessions

/-- Every session keeps the parser's invariant, and there are other sessions only beside a present one, none of them
with a parse call open (R11). -/
def State.parserInv (s : State) : Prop :=
  (∀ P ∈ s.sessions, P.Inv s.params) ∧
  ∀ P ∈ s.otherSessions, s.parser.session = true ∧ P.session = true ∧ P.call = .idle

/-- The engine the host works with and the others, each with its callers. -/
def State.correlators (s : State) : List Correlator := s.correlator :: s.otherEngines

/-- Every engine keeps the correlator's invariant. -/
def State.engineInv (s : State) : Prop := ∀ c ∈ s.correlators, c.engine.Inv s.params

/-- Mutual exclusion in every engine, for both kinds. -/
def State.exclusion (s : State) : Prop := ∀ c ∈ s.correlators, c.superExclusion ∧ c.stackExclusion

/-- The caller is done (R51). -/
def Caller.isDone (a : Caller) : Bool :=
  match a.step with
  | .start => false
  | .waitSlot => false
  | .writing => false
  | .waitDone => false
  | .done _ => true

/-- What holds of the whole machine between two steps. -/
structure State.Inv (s : State) : Prop where
  parser : s.parserInv
  engine : s.engineInv
  exclusion : s.exclusion

end Sys2Proof.Machine
end

