-- ==== Sys2Proof/Certificates/Slice0/Obligations.lean ====
section
/-! DEFINITION. The statements for the provers: one `def Obligations.<Name> : Prop` each. -/

/-! ## Terms of the statements -/

namespace Sys2Proof

/-- The output words of a command that is no block producer (R160, R162). -/
def Command.outputs : Command → Nat
  | .vmeRead => 1
  | .vmeBlockRead => 0
  | .writeMarker => 1
  | .writeSpecial => 1
  | .custom n => n
  | .setAccu => 0
  | .other => 0

/-- Neither a block read nor an accumulator command (R160). -/
def Command.isPlain : Command → Bool
  | .vmeBlockRead => false
  | .setAccu => false
  | _ => true

/-- No read, so that an active accumulator stays active (R162). -/
def Command.isQuiet : Command → Bool
  | .vmeRead => false
  | .vmeBlockRead => false
  | _ => true

/-- The output words of commands none of which is a block producer (R162). -/
def outputWords (cmds : List Command) : Nat := (cmds.map Command.outputs).sum

/-- A module handed to the generator matches a row of the table (R361). -/
def GenModule.Fits (m : GenModule) (shape : ModuleShape) : Prop :=
  m.prefixWords.length = shape.prefixLen.toNat ∧ m.suffixWords.length = shape.suffixLen.toNat ∧
  m.dynamicWords.isSome = shape.hasDynamic

/-- The words of a module, in order (R361). -/
def GenModule.data (m : GenModule) : List Word := m.prefixWords ++ m.dynamicWords.getD [] ++ m.suffixWords

/-- What the parser is to emit for a module (R361, R258). -/
def GenModule.emission (m : GenModule) : Machine.ModuleData where
  data := m.data
  size := m.data.length
  prefixSize := m.prefixWords.length
  dynamicSize := (m.dynamicWords.getD []).length
  suffixSize := m.suffixWords.length

/-- The payload words of a module that needs no split (R360): one BlockRead without Continue. -/
def GenModule.payload (m : GenModule) : List Word :=
  m.prefixWords ++ (match m.dynamicWords with
    | none => []
    | some r => encodeHeader 0xF5 0 0 r.length :: r) ++ m.suffixWords

/-- What the generator writes into frames (R360): a word, or a dynamic part under BlockRead headers. -/
inductive GenItem where
  | word (w : Word)
  | block (r : List Word)

/-- The items of a module, in order (R360). -/
def GenModule.items (m : GenModule) : List GenItem :=
  m.prefixWords.map .word ++ (m.dynamicWords.map GenItem.block).toList ++ m.suffixWords.map .word

/-- Items packed into frame payloads of at most `m` words, the open frame holding `p` (R360): a frame is closed only
when the next word does not fit it, and before a BlockRead header with no room for a data word; a block is split where
the frame ends, with Continue on every BlockRead but its last. -/
inductive Packs (m : Nat) : List Word → List GenItem → List (List Word) → Prop where
  | last (p : List Word) : Packs m p [] [p]
  | word (p : List Word) (w : Word) (rest : List GenItem) (frames : List (List Word)) :
      p.length < m → Packs m (p ++ [w]) rest frames → Packs m p (.word w :: rest) frames
  | full (p : List Word) (w : Word) (rest : List GenItem) (frames : List (List Word)) :
      p.length = m → Packs m [] (.word w :: rest) frames → Packs m p (.word w :: rest) (p :: frames)
  | block (p r : List Word) (rest : List GenItem) (frames : List (List Word)) :
      p.length + 2 ≤ m → p.length + 1 + r.length ≤ m →
      Packs m (p ++ packHeader 0xF5#8 0 0 (BitVec.ofNat 13 r.length) :: r) rest frames →
      Packs m p (.block r :: rest) frames
  | split (p r : List Word) (n : Nat) (rest : List GenItem) (frames : List (List Word)) :
      p.length + 2 ≤ m → p.length + 1 + n = m → n < r.length →
      Packs m (p ++ packHeader 0xF5#8 8 0 (BitVec.ofNat 13 n) :: r.take n) (.block (r.drop n) :: rest) frames →
      Packs m p (.block r :: rest) frames
  | noRoom (p r : List Word) (rest : List GenItem) (frames : List (List Word)) :
      m < p.length + 2 → Packs m [] (.block r :: rest) frames → Packs m p (.block r :: rest) (p :: frames)

/-- Frame payloads under their headers (R360): a StackFrame first, then StackContinuations, with Continue on all but
the last, under the 7-bit `id`. -/
def framed (id : BitVec 7) (type : BitVec 8) : List (List Word) → List Word
  | [] => []
  | [p] => packHeader type 0 id (BitVec.ofNat 13 p.length) :: p
  | p :: q :: rest => packHeader type 8 id (BitVec.ofNat 13 p.length) :: (p ++ framed id 0xF9#8 (q :: rest))

/-- The first phase of a module that needs a word (R247); a module `(0, 0, 0)` has none. -/
def ModuleShape.StartsIn (mod : ModuleShape) (ph : Machine.Phase) : Prop :=
  mod.prefixLen ≠ 0 ∧ ph = .prefixPhase ∨
  mod.prefixLen = 0 ∧ mod.hasDynamic = true ∧ ph = .dynamicPhase ∨
  mod.prefixLen = 0 ∧ mod.hasDynamic = false ∧ mod.suffixLen ≠ 0 ∧ ph = .suffixPhase

end Sys2Proof

namespace Sys2Proof.Machine

/-- Buffers fed one after another with consecutive numbers (R361). -/
def feedBuffers (n : BitVec 32) : List (List Word) → State → Option State
  | [], s => some s
  | W :: Ws, s =>
    match exec (.parseUsbBuffer n W) s with
    | .next t => feedBuffers (n + 1) Ws t
    | .fault _ => none
    | .refused _ => none

/-- The registers after `raise o` (R402), written out; the read position stays. -/
def Parser.afterError (o : ParseOutcome) (P : Parser) : Parser :=
  { P with
    eventIndex := -1, moduleIndex := -1, phase := .prefixPhase, stackF := ⟨0, 0⟩, blockF := ⟨0, 0⟩
    spans := [], scratch := [], used := 0
    counters := { P.counters with parseResults := P.counters.parseResults.bump o }
    call := { P.call with
      raised := true
      unitFirst := P.call.unitFirst.or (some o)
      callFirst := P.call.callFirst.or (some o) } }

/-- `n` words counted unused (R193), and the read position `n` words on. -/
def Parser.afterUnused (n : Nat) (P : Parser) : Parser :=
  { P with
    counters := { P.counters with unusedBytes := P.counters.unusedBytes + BitVec.ofNat 64 (4 * n) }
    call := { P.call with rp := P.call.rp + n } }

/-- `Q` is `R` after the event in progress is emitted (R257 to R259), the spans of its modules being `sp`: one
`ModuleData` a module read from the scratch buffer, the counters of its modules and of no others updated, and the
registers of Idle. -/
def Parser.Emits (R : Parser) (sp : Nat → Span) (Q : Parser) : Prop :=
  let e := R.eventIndex.toNat
  ∃ mods : List ModuleData, mods.length = R.modules.length ∧
    Q = { R with
      eventIndex := -1, moduleIndex := -1, phase := .prefixPhase, stackF := ⟨0, 0⟩, blockF := ⟨0, 0⟩
      spans := [], scratch := [], used := 0
      emitted := R.emitted ++ [.eventData R.eventIndex mods]
      counters := { R.counters with moduleStats := Q.counters.moduleStats } } ∧
    (∀ m d, mods[m]? = some d →
      d = ⟨Memory.read R.scratch (sp m).prefixSpan.off (sp m).total, (sp m).total, (sp m).prefixSpan.size,
        (sp m).dynamicSpan.size, (sp m).suffixSpan.size⟩ ∧
      (Q.counters.stats e m).hits = (R.counters.stats e m).hits + 1 ∧
      (Q.counters.stats e m).sizeSum = (R.counters.stats e m).sizeSum + BitVec.ofNat 64 d.size ∧
      (Q.counters.stats e m).sizeMin.toNat = min (R.counters.stats e m).sizeMin.toNat (d.size % 2 ^ 64) ∧
      (Q.counters.stats e m).sizeMax.toNat = max (R.counters.stats e m).sizeMax.toNat (d.size % 2 ^ 64)) ∧
    ∀ f m, f < 16 → f ≠ e ∨ R.modules.length ≤ m → Q.counters.stats f m = R.counters.stats f m

/-- `Q` is `R` after the modules from module `m` on are entered (R246, R247): modules `(0, 0, 0)` are passed over, the
first other one stands in its first phase that needs a word, each of them with its spans empty at `used`; where no
module from `m` on needs a word, the event is emitted. -/
def Parser.EntersFrom (R : Parser) (m : Nat) (Q : Parser) : Prop :=
  let empty : Span := ⟨⟨R.used, 0⟩, ⟨R.used, 0⟩, ⟨R.used, 0⟩⟩
  (∀ (k : Nat) (mod : ModuleShape) (ph : Phase), m ≤ k → R.modules[k]? = some mod → mod.StartsIn ph →
    (∀ j, m ≤ j → j < k → R.modules[j]? = some ⟨0, 0, false⟩) →
    Q = { R with moduleIndex := k, phase := ph, blockF := ⟨0, 0⟩, spans := Q.spans } ∧
    ∀ j, Q.span j = if m ≤ j ∧ j ≤ k then empty else R.span j) ∧
  ((∀ j, m ≤ j → j < R.modules.length → R.modules[j]? = some ⟨0, 0, false⟩) →
    R.Emits (fun j => if m ≤ j then empty else R.span j) Q)

/-- An emission matches the table (R167, R258, R266): one `ModuleData` per module of its row, each with the prefix and
suffix lengths of the row, a dynamic part only where the row has one, and as many words as its sizes say. -/
def Emission.Matches (rs : ReadoutStructure) : Emission → Prop
  | .eventData e mods => 0 ≤ e ∧ ∃ row, rs[e.toNat]? = some row ∧
      List.Forall₂ (fun (d : ModuleData) (shape : ModuleShape) =>
        d.prefixSize = shape.prefixLen.toNat ∧ d.suffixSize = shape.suffixLen.toNat ∧
        (shape.hasDynamic = false → d.dynamicSize = 0) ∧
        d.size = d.prefixSize + d.dynamicSize + d.suffixSize ∧ d.data.length = d.size) mods row
  | .systemEvent _ => True

/-- The next transition stays in the present session: it neither creates one nor turns to one (R414; log 24). -/
def State.StaysInSession (s : State) : Prop :=
  (∀ rs es, s.fetch ≠ .event (.op (.sessionReset rs)) es) ∧ ∀ k es, s.fetch ≠ .event (.turnToSession k) es

/-- The next transition stays with the present engine: it neither constructs one nor turns to one (R414; log 19). -/
def State.StaysAtEngine (s : State) : Prop :=
  (∀ es, s.fetch ≠ .event (.op .engineConstruct) es) ∧ ∀ k es, s.fetch ≠ .event (.turnToEngine k) es

/-- Sections of a system event that all have Continue set, one after another (R261). -/
inductive OpenChain : List Word → Prop where
  | nil : OpenChain []
  | more (h : Word) (pay rest : List Word) : typeOf h = 0xFA#8 → hasContinue h = true →
      pay.length = payloadWords h → OpenChain rest → OpenChain (h :: (pay ++ rest))

/-- The super slot's new contents and the counters after a complete SuperFrame with payload `pay` (R310). -/
def SuperJudged (p : Params) (pay : List Word) (T U : Engine) : Prop :=
  (T.slotSuper.isPending = false → U = { T with counters := { T.counters with
    unexpectedSuperFrames := T.counters.unexpectedSuperFrames + 1 } }) ∧
  ∀ ref, T.slotSuper = .pending ref →
    ((∀ w ∈ pay.head?, w.toNat % 2 ^ 16 ≠ ref.toNat) → U = { T with
      slotSuper := .fulfilled (.err .referenceMismatch)
      counters := { T.counters with superRefMismatches := T.counters.superRefMismatches + 1 } }) ∧
    ((∃ w ∈ pay.head?, w.toNat % 2 ^ 16 = ref.toNat) →
      (p.respMaxWords < pay.length → U = { T with slotSuper := .fulfilled (.err .protocolError) }) ∧
      (pay.length ≤ p.respMaxWords → U = { T with slotSuper := .fulfilled (.ok pay) }))

/-- The stack slot's new contents and the counters after a collected stack reply: its payload words `chain`,
`bad` where words did not fit or the chain was broken (R314); the collector is left empty. -/
def StackJudged (p : Params) (chain : List Word) (bad : Bool) (T U : Engine) : Prop :=
  let E := { T with collecting := false, chainWords := [], chainOverflow := false, chainBroken := false }
  (T.slotStack.isPending = false → U = { E with counters := { T.counters with
    unexpectedStackFrames := T.counters.unexpectedStackFrames + 1 } }) ∧
  ∀ ref, T.slotStack = .pending ref →
    (chain.head? ≠ some ref → U = { E with
      slotStack := .fulfilled (.err .referenceMismatch)
      counters := { T.counters with stackRefMismatches := T.counters.stackRefMismatches + 1 } }) ∧
    (chain.head? = some ref →
      (bad = true ∨ p.respMaxWords < chain.length →
        U = { E with slotStack := .fulfilled (.err .protocolError) }) ∧
      (bad = false → chain.length ≤ p.respMaxWords → U = { E with slotStack := .fulfilled (.ok chain) }))

/-- The correlator after `shutdown()` (R320), written out. -/
def Engine.afterShutdown (T : Engine) : Engine :=
  { T with
    fifo := [], collecting := false, chainWords := [], chainOverflow := false, chainBroken := false
    slotSuper := if T.slotSuper.isPending then .fulfilled (.err .disconnected) else T.slotSuper
    slotStack := if T.slotStack.isPending then .fulfilled (.err .disconnected) else T.slotStack
    running := false }

end Sys2Proof.Machine

section
open Sys2Proof Sys2Proof.Machine

/-! ## Encoding and the codec -/

/-- Words written out from the encodings of R100, R107, R108 and R109 (listing notation of R116) decode to the
instructions they stand for. The codes 0xF1 and 0xF7 are the suggested ones of R7 (PRESUMED, log 1). -/
def Obligations.SampleWordsDecode : Prop :=
  decodeFrameWord .suggested 0xF3832002#32 = .ok (.stack 8 3 1 2) ∧
  decodeFrameWord .suggested 0xF9032002#32 = .ok (.cont 0 3 1 2) ∧
  decodeFrameWord .suggested 0xF5800001#32 = .ok (.block 8 0 0 1) ∧
  decodeFrameWord .suggested 0xF1000002#32 = .ok (.super 0 0 0 2) ∧
  decodeFrameWord .suggested 0xF7220001#32 = .ok (.stkerr 2 2 0 1) ∧
  decodeFrameWord .suggested 0xFA802002#32 = .ok (.sysev 1 0 1 2) ∧
  decodeAt .suggested .ethWord0 0x50070003#32 = .ok (.eth0 5 7 0 3) ∧
  decodeAt .suggested .ethWord1 0x00009FFF#32 = .ok (.eth1 9 0xFFF)

/-- Every header word, with every operand at every value, laid out as transport bytes, decodes to its
instruction and leaves the rest of the stream, under all legal parameters (R100, R101, R107 to R109, R71). -/
def Obligations.HeaderWordsRoundTrip : Prop :=
  ∀ (p : Params) (i : Instr), p.legal = true → isHeaderWord i = true →
    ∃ bs, encodeBytes p i = some bs ∧ bs.length = 4 ∧
      ∀ rest, decodeBytes p (positionOf i) (bs ++ rest) = .ok (i, rest)

/-- The other direction: bytes that decode are the encoding of what they decode to, so no bit is dropped;
and bytes at a frame position are refused exactly where their type is not recognised (R111). -/
def Obligations.DecodedBytesReencode : Prop :=
  ∀ (p : Params) (pos : Position) (b0 b1 b2 b3 : Byte) (rest : List Byte),
    (∀ i r, decodeBytes p pos (b0 :: b1 :: b2 :: b3 :: rest) = .ok (i, r) →
      r = rest ∧ positionOf i = pos ∧ wellFormed p i = true ∧ encodeBytes p i = some [b0, b1, b2, b3]) ∧
    (∀ e, decodeBytes p pos (b0 :: b1 :: b2 :: b3 :: rest) = .error e ↔
      pos = .frame ∧ frameKind p (typeOf (wordOfBytes p.byteOrder b0 b1 b2 b3)) = .notRecognized ∧
        e = .notRecognizedType (typeOf (wordOfBytes p.byteOrder b0 b1 b2 b3)))

/-- The three decoders return the fields of their words and change nothing else: `decode_header` bits 31:24,
23:20, 19:13 and 12:0 and the kind of the type (R140); `decode_sysevent_header` bits 23, 22:20, 19:13 and
12:0, whatever the type byte (R145); `decode_eth_header` the five fields of two words, without bits 15:13 of the
first (R148). -/
def Obligations.DecodersReadTheFields : Prop :=
  ∀ (s : State) (w w1 : Word),
    (∃ h : Header, exec (.decodeHeader w) s = .next { s with result := .header h } ∧
      h.type.toNat = w.toNat / 2 ^ 24 ∧ h.flags.toNat = w.toNat / 2 ^ 20 % 2 ^ 4 ∧
      h.id.toNat = w.toNat / 2 ^ 13 % 2 ^ 7 ∧ h.length.toNat = w.toNat % 2 ^ 13 ∧
      exec (.frameKind h.type) s = .next { s with result := .kind h.kind }) ∧
    (∃ h : SysEventHeader, exec (.decodeSyseventHeader w) s = .next { s with result := .sysEvent h } ∧
      h.continueBit.toNat = w.toNat / 2 ^ 23 % 2 ∧ h.ctrlId.toNat = w.toNat / 2 ^ 20 % 2 ^ 3 ∧
      h.subtype.toNat = w.toNat / 2 ^ 13 % 2 ^ 7 ∧ h.length.toNat = w.toNat % 2 ^ 13) ∧
    (∃ h : EthHeader, exec (.decodeEthHeader w w1) s = .next { s with result := .eth h } ∧
      h.packetChannel.toNat = w.toNat / 2 ^ 28 ∧ h.packetNumber.toNat = w.toNat / 2 ^ 16 % 2 ^ 12 ∧
      h.numDataWords.toNat = w.toNat % 2 ^ 13 ∧ h.timestamp.toNat = w1.toNat / 2 ^ 12 ∧
      h.headerPointer.toNat = w1.toNat % 2 ^ 12)

/-- `encode_header` masks each argument to its field and puts the fields side by side (R141). -/
def Obligations.EncodeHeaderMasksAndPacks : Prop :=
  ∀ (s : State) (type flags id length : Nat), ∃ w : Word,
    exec (.encodeHeader type flags id length) s = .next { s with result := .word w } ∧
    w.toNat = type % 2 ^ 8 * 2 ^ 24 + flags % 2 ^ 4 * 2 ^ 20 + id % 2 ^ 7 * 2 ^ 13 + length % 2 ^ 13

/-- The two tests of the type byte: `is_good_header` holds exactly for the three types of R142 and examines no other
bit; `frame_kind` maps the six codes to their names and every other value to NotRecognized (R143). -/
def Obligations.HeaderTestsReadTheType : Prop :=
  ∀ (s : State) (w : Word) (t : BitVec 8), s.params.legal = true →
    (∃ b : Bool, exec (.isGoodHeader w) s = .next { s with result := .bool b } ∧
      (b = true ↔ w.toNat / 2 ^ 24 = s.params.typeSuper.toNat ∨ w.toNat / 2 ^ 24 = 0xF3 ∨
        w.toNat / 2 ^ 24 = s.params.typeStackErr.toNat)) ∧
    ∃ k : FrameKind, exec (.frameKind t) s = .next { s with result := .kind k } ∧
      (k = .superFrame ↔ t = s.params.typeSuper) ∧ (k = .stackFrame ↔ t = 0xF3#8) ∧
      (k = .blockRead ↔ t = 0xF5#8) ∧ (k = .stackError ↔ t = s.params.typeStackErr) ∧
      (k = .stackContinuation ↔ t = 0xF9#8) ∧ (k = .systemEvent ↔ t = 0xFA#8) ∧
      (k = .notRecognized ↔ t ≠ s.params.typeSuper ∧ t ≠ 0xF3#8 ∧ t ≠ 0xF5#8 ∧
        t ≠ s.params.typeStackErr ∧ t ≠ 0xF9#8 ∧ t ≠ 0xFA#8)

/-- `encode_sysevent_header` masks and packs its arguments under the type byte 0xFA, and decoding gives them
back (R146; the round trip is an inference the spec marks as its own). `has_continue` is bit 23 of any word (R147; that
the one test serves every frame type is an inference the spec marks as its own). -/
def Obligations.SysEventHeadersPackAndContinueIsBit23 : Prop :=
  ∀ s : State,
    (∀ c k t l : Nat, ∃ w : Word,
      exec (.encodeSyseventHeader c k t l) s = .next { s with result := .word w } ∧
      w.toNat = 0xFA * 2 ^ 24 + c % 2 * 2 ^ 23 + k % 2 ^ 3 * 2 ^ 20 + t % 2 ^ 7 * 2 ^ 13 + l % 2 ^ 13 ∧
      exec (.decodeSyseventHeader w) s = .next
        { s with result := .sysEvent ⟨BitVec.ofNat 1 c, BitVec.ofNat 3 k, BitVec.ofNat 7 t, BitVec.ofNat 13 l⟩ }) ∧
    ∀ w : Word, ∃ b : Bool, exec (.hasContinue w) s = .next { s with result := .bool b } ∧
      (b = true ↔ w.toNat / 2 ^ 23 % 2 = 1)

/-! ## The builder -/

/-- The builder returns one row per module per event, in order, where every module builds; else it names the
first failure: too many events before anything else, then the first event with too many modules, then the
first malformed module (R161). Nothing but the result changes (R165). -/
def Obligations.BuilderReturnsTheTableOrTheFirstFailure : Prop :=
  ∀ (s : State) (programs : Programs),
    (15 < programs.length →
      exec (.buildReadoutStructure programs) s = .next { s with result := .buildError 15 (-1) }) ∧
    (programs.length ≤ 15 → ∀ e mods, programs[e]? = some mods → s.params.maxModules < mods.length →
      (∀ f ms, f < e → programs[f]? = some ms → ms.length ≤ s.params.maxModules) →
      exec (.buildReadoutStructure programs) s = .next { s with result := .buildError e (-1) }) ∧
    (programs.length ≤ 15 → (∀ mods ∈ programs, mods.length ≤ s.params.maxModules) →
      (∀ e mods (m : Nat) cmds, programs[e]? = some mods → mods[m]? = some cmds → buildModule cmds = none →
        (∀ f ms, f < e → programs[f]? = some ms → ∀ c ∈ ms, buildModule c ≠ none) →
        (∀ (k : Nat) c, k < m → mods[k]? = some c → buildModule c ≠ none) →
        exec (.buildReadoutStructure programs) s = .next { s with result := .buildError e m }) ∧
      ((∀ mods ∈ programs, ∀ cmds ∈ mods, buildModule cmds ≠ none) →
        ∃ rs, exec (.buildReadoutStructure programs) s = .next { s with result := .table rs } ∧
          List.Forall₂ (List.Forall₂ fun cmds shape => buildModule cmds = some shape) programs rs))

/-- `build_module` counts the words before the one block producer into the prefix and those after it into the
suffix, fails where a count exceeds 255, and fails on a second block producer (R162, R164). The accumulator's lifetime is
general knowledge by the spec's own mark (D22, log 22, PRESUMED): `SetAccu` makes the next read a block producer,
whatever stands between them, a block read uses it up, and with no read after it it changes nothing. -/
def Obligations.BuildModuleCountsTheWords : Prop :=
  ∀ a b mid tail c : List Command, a.all Command.isPlain = true → b.all Command.isPlain = true →
    mid.all Command.isQuiet = true → tail.all Command.isQuiet = true →
    -- a block producer, and the commands in it that count as prefix words
    let producers := [([Command.vmeBlockRead], []), (.setAccu :: (mid ++ [.vmeRead]), mid),
      (.setAccu :: (mid ++ [.vmeBlockRead]), mid)]
    buildModule (a ++ tail) =
      (if outputWords a + outputWords tail ≤ 255 then
        some ⟨BitVec.ofNat 8 (outputWords a + outputWords tail), 0, false⟩ else none) ∧
    ∀ producer ∈ producers,
      let before := outputWords a + outputWords producer.2
      let after := outputWords b + outputWords tail
      buildModule (a ++ producer.1 ++ b ++ tail) =
        (if before ≤ 255 ∧ after ≤ 255 then some ⟨BitVec.ofNat 8 before, BitVec.ofNat 8 after, true⟩ else none) ∧
      ∀ second ∈ producers, buildModule (a ++ producer.1 ++ b ++ second.1 ++ c) = none

/-- A table the builder returns is a legal readout structure, and a module without a dynamic part has no
suffix words (R163). -/
def Obligations.BuiltTablesAreLegal : Prop :=
  ∀ (s t : State) (programs : Programs) (rs : ReadoutStructure),
    exec (.buildReadoutStructure programs) s = .next t → t.result = .table rs →
      ReadoutStructure.legal s.params rs = true ∧
      ∀ mods ∈ rs, ∀ shape ∈ mods, shape.hasDynamic = false → shape.suffixLen = 0

/-! ## Sessions, resets and refusals -/

/-- `session_reset` with a legal table, no call being open, creates a session with every register as R450 sets it and
changes nothing else. That the session before it, if there was one, stays beside the new one, unchanged, is the model's
reading of R414 (log 24); that the record of emissions is one a session is its choice (log 9). -/
def Obligations.SessionResetSetsEveryRegister : Prop :=
  ∀ (s : State) (rs : ReadoutStructure), s.parser.callOpen = false →
    ReadoutStructure.legal s.params rs = true →
    ∃ P : Parser, exec (.sessionReset rs) s = .next { s with
        parser := P
        otherSessions := if s.parser.session then s.parser :: s.otherSessions else s.otherSessions } ∧
      P.session = true ∧ P.rs = rs ∧ P.eventIndex = -1 ∧ P.moduleIndex = -1 ∧ P.phase = .prefixPhase ∧
      P.stackF = ⟨0, 0⟩ ∧ P.blockF = ⟨0, 0⟩ ∧ (∀ m, P.span m = ⟨⟨0, 0⟩, ⟨0, 0⟩, ⟨0, 0⟩⟩) ∧ P.used = 0 ∧
      P.lastBufferNumber = 0 ∧ P.bufSeqValid = false ∧ P.lastPacketNumber = 0 ∧ P.pktSeqValid = false ∧
      P.counters.bufferLoss = 0 ∧ P.counters.ethPacketLoss = 0 ∧ P.counters.bytesProcessed = 0 ∧
      P.counters.unusedBytes = 0 ∧ P.counters.exceptionCount = 0 ∧
      (∀ o, P.counters.parseResults.get o = 0) ∧
      (∀ e m, P.counters.stats e m = ⟨0, BitVec.ofNat 64 (2 ^ 64 - 1), 0, 0⟩) ∧
      P.call = .idle ∧ P.emitted = []

/-- `engine_construct` sets every register of R451 and touches no parser register. That the engine it replaces stays
beside the new one, with its callers and unchanged, is the model's reading of R414 and R321 (log 19). -/
def Obligations.EngineConstructSetsEveryRegister : Prop :=
  ∀ s : State, ∃ T : Engine, exec .engineConstruct s =
      .next { s with engine := T, callers := [], otherEngines := ⟨s.engine, s.callers⟩ :: s.otherEngines } ∧
    T.slotSuper = .free ∧ T.slotStack = .free ∧ T.fifo = [] ∧ T.collecting = false ∧ T.chainStack = 0 ∧
    T.chainWords = [] ∧ T.chainOverflow = false ∧ T.chainBroken = false ∧ T.running = true ∧
    T.stopReq = false ∧ T.counters = ⟨0, 0, 0, 0, 0, 0, 0⟩ ∧
    (∀ s line flags, T.stackErrors.count s line flags = 0) ∧ T.stackErrors.nonErrorFrames = 0

/-- The state after reset: the parser in Idle with every counter and tracker 0 and the size minima at their largest
value (R450), the engine as constructed (R451), and every invariant of the machine. That no session, caller or other
engine exists yet, the empty table and the parameters are the model's (log 1 to 4, 19, 24). -/
def Obligations.ResetLeavesIdleAndARunningEngine : Prop :=
  State.reset.parser.session = false ∧ State.reset.parser.rs = [] ∧ State.reset.parser.IdleRegisters ∧
  State.reset.parser.lastBufferNumber = 0 ∧ State.reset.parser.bufSeqValid = false ∧
  State.reset.parser.lastPacketNumber = 0 ∧ State.reset.parser.pktSeqValid = false ∧
  State.reset.parser.counters.bufferLoss = 0 ∧ State.reset.parser.counters.ethPacketLoss = 0 ∧
  State.reset.parser.counters.bytesProcessed = 0 ∧ State.reset.parser.counters.unusedBytes = 0 ∧
  State.reset.parser.counters.exceptionCount = 0 ∧
  (∀ o, State.reset.parser.counters.parseResults.get o = 0) ∧
  (∀ e m, State.reset.parser.counters.stats e m = ⟨0, BitVec.ofNat 64 (2 ^ 64 - 1), 0, 0⟩) ∧
  State.reset.parser.call = .idle ∧ State.reset.parser.emitted = [] ∧ State.reset.otherSessions = [] ∧
  State.reset.engine.running = true ∧ State.reset.engine.stopReq = false ∧
  exec .engineConstruct State.reset = .next { State.reset with otherEngines := [⟨State.reset.engine, []⟩] } ∧
  State.reset.params = .suggested ∧ State.reset.callers = [] ∧ State.reset.otherEngines = [] ∧
  State.reset.written = [] ∧ State.reset.schedule = [] ∧ State.reset.Inv

/-- An access to the parser that overlaps a running call is refused (R455); that `end_of_stream` is such an access is
the model's deduction (log 17). -/
def Obligations.OverlappingAccessIsRefused : Prop :=
  ∀ (s : State) (n : BitVec 32) (W : List Word) (rs : ReadoutStructure), s.parser.callOpen = true →
    exec (.parseUsbBuffer n W) s = .refused .overlapsParseCall ∧
    exec (.parseEthBuffer n W) s = .refused .overlapsParseCall ∧
    exec .endOfStream s = .refused .overlapsParseCall ∧
    exec .readParserCounters s = .refused .overlapsParseCall ∧
    exec (.sessionReset rs) s = .refused .overlapsParseCall

/-- Without a session the parse operations are not available (R450), and an instruction with an operand outside
the range of its rule (R307, R360, R450) is refused by name; that these are refusals is the model's choice
(log 4, 20). -/
def Obligations.OperationsOutsideTheirDomainAreRefused : Prop :=
  ∀ (s : State) (n : BitVec 32) (W : List Word) (i : Instr), s.parser.callOpen = false →
    (s.parser.session = false →
      exec (.parseUsbBuffer n W) s = .refused .noSession ∧
      exec (.parseEthBuffer n W) s = .refused .noSession ∧ exec .endOfStream s = .refused .noSession) ∧
    (wellFormed s.params i = false → exec i s = .refused .operandOutOfRange)

/-! ## Parse calls -/

/-- A parse call in a session, no call being open, completes with an outcome: it counts the bytes handed over,
checks the buffer number, keeps the table, only appends emissions, and touches nothing of the correlator; a USB
call keeps the packet tracker (R180, R182, R184, R190, R192, R197). -/
def Obligations.ParseCallsComplete : Prop :=
  ∀ (s : State) (n : BitVec 32) (W : List Word) (i : Instr), i = .parseUsbBuffer n W ∨ i = .parseEthBuffer n W →
    s.parser.session = true → s.parser.callOpen = false →
    ∃ (t : State) (o : ParseOutcome), exec i s = .next t ∧ t = { s with parser := t.parser, result := .outcome o } ∧
      o ≠ .truncatedInput ∧ (o = .ok → t.parser.eventIndex < 0) ∧ (o = .needMoreInput → 0 ≤ t.parser.eventIndex) ∧
      t.parser.session = true ∧ t.parser.rs = s.parser.rs ∧ t.parser.call = .idle ∧
      t.parser.lastBufferNumber = n ∧ t.parser.bufSeqValid = true ∧
      t.parser.counters.bytesProcessed = s.parser.counters.bytesProcessed + BitVec.ofNat 64 (4 * W.length) ∧
      t.parser.counters.bufferLoss = s.parser.counters.bufferLoss +
        (if s.parser.bufSeqValid then (n - s.parser.lastBufferNumber - 1).setWidth 64 else 0) ∧
      (∃ es, t.parser.emitted = s.parser.emitted ++ es) ∧
      (i = .parseUsbBuffer n W → t.parser.lastPacketNumber = s.parser.lastPacketNumber ∧
        t.parser.pktSeqValid = s.parser.pktSeqValid ∧
        t.parser.counters.ethPacketLoss = s.parser.counters.ethPacketLoss)

/-- A buffer after lost ones is parsed as the next one in order would be by a parser whose event has been
cleared, with the number of lost buffers counted; the loss itself is no outcome (R182, R183, R195). -/
def Obligations.LostBuffersAbandonTheEvent : Prop :=
  ∀ (s : State) (n : BitVec 32) (W : List Word) (i : Instr), i = .parseUsbBuffer n W ∨ i = .parseEthBuffer n W →
    s.parser.bufSeqValid = true → n ≠ s.parser.lastBufferNumber + 1 →
    exec i s = exec i { s with parser := { s.parser with
      eventIndex := -1, moduleIndex := -1, phase := .prefixPhase, stackF := ⟨0, 0⟩, blockF := ⟨0, 0⟩,
      spans := [], scratch := [], used := 0, lastBufferNumber := n - 1,
      counters := { s.parser.counters with
        bufferLoss := s.parser.counters.bufferLoss + (n - s.parser.lastBufferNumber - 1).setWidth 64 } } }

/-- A USB buffer of words that start no frame, met in Idle with no loss, is skipped whole: four unused bytes a
word, the outcome NoStackFrameFound once, and no other register changed (R189, R193, R196, R244). -/
def Obligations.GarbageIsSkippedAndCounted : Prop :=
  ∀ (s : State) (n : BitVec 32) (W : List Word), s.parser.session = true → s.parser.callOpen = false →
    s.parser.bufSeqValid = false ∨ n = s.parser.lastBufferNumber + 1 → s.parser.eventIndex < 0 → W ≠ [] →
    (∀ w ∈ W, frameKind s.params (typeOf w) = .blockRead ∨ frameKind s.params (typeOf w) = .stackContinuation ∨
      frameKind s.params (typeOf w) = .notRecognized) →
    exec (.parseUsbBuffer n W) s = .next { s with
      result := .outcome .noStackFrameFound
      parser := { s.parser with
        lastBufferNumber := n, bufSeqValid := true, call := .idle
        counters := { s.parser.counters with
          bytesProcessed := s.parser.counters.bytesProcessed + BitVec.ofNat 64 (4 * W.length)
          unusedBytes := s.parser.counters.unusedBytes + BitVec.ofNat 64 (4 * W.length)
          parseResults := { s.parser.counters.parseResults with
            noStackFrameFound := s.parser.counters.parseResults.noStackFrameFound + 1 } } } }

/-- `end_of_stream` with an event in progress counts and returns `TruncatedInput` and clears the event, emitting
nothing; else it returns `Ok`; it leaves the sequence trackers alone (R194). -/
def Obligations.EndOfStreamTruncatesTheEvent : Prop :=
  ∀ s : State, s.parser.session = true → s.parser.callOpen = false →
    (s.parser.eventIndex < 0 → exec .endOfStream s = .next { s with result := .outcome .ok }) ∧
    (0 ≤ s.parser.eventIndex → exec .endOfStream s = .next { s with
      result := .outcome .truncatedInput
      parser := { s.parser with
        eventIndex := -1, moduleIndex := -1, phase := .prefixPhase, stackF := ⟨0, 0⟩, blockF := ⟨0, 0⟩,
        spans := [], scratch := [], used := 0
        counters := { s.parser.counters with parseResults := { s.parser.counters.parseResults with
          truncatedInput := s.parser.counters.parseResults.truncatedInput + 1 } } } })

/-- The two counter read ports return a copy of the counters and change nothing (R415, R416); the parser's is
read between two calls. -/
def Obligations.CounterReadsReturnCopies : Prop :=
  ∀ s : State,
    (s.parser.callOpen = false →
      exec .readParserCounters s = .next { s with result := .parserCounters s.parser.counters }) ∧
    exec .readEngineCounters s =
      .next { s with result := .engineCounters s.engine.counters s.engine.stackErrors }

/-! ## The generator -/

/-- `generate_event` completes for every event, frame limit and list of modules in range, changing only the
result: frames of at most `M` words packed as R360 packs them, Continue on all but the last; where the payload stays
below the limit, one StackFrame that holds the modules' words, each dynamic part under one BlockRead header. The layout
is the spec's own reconstruction (D40, log 21). -/
def Obligations.GenerateEventWritesFrames : Prop :=
  ∀ (s : State) (ev : BitVec 4) (k : BitVec 3) (mods : List GenModule) (m : BitVec 13),
    ev.toNat ≤ 14 → 2 ≤ m.toNat → ∃ frames : List (List Word),
      exec (.generateEvent ev k mods m) s =
        .next { s with result := .words (framed ((ev + 1) ++ k) 0xF3#8 frames) } ∧
      Packs m.toNat [] (mods.flatMap GenModule.items) frames ∧ (∀ p ∈ frames, p.length ≤ m.toNat) ∧
      ((mods.flatMap GenModule.payload).length < m.toNat → frames = [mods.flatMap GenModule.payload])

/-- `generate_system_event` writes one section without Continue where the payload fits the limit, else a section
of `M` words with Continue and then the sections of the rest; the first header gives `ctrlId` and `subtype`
(R363). The layout is the spec's own reconstruction (D40, log 21). -/
def Obligations.GenerateSystemEventSplitsSections : Prop :=
  ∀ (s : State) (hdr : Word) (pay : List Word) (m : BitVec 13), 2 ≤ m.toNat →
    let last := packSysEventHeader 0#1 (field hdr 20 3) (field hdr 13 7) (BitVec.ofNat 13 pay.length)
    let more := packSysEventHeader 1#1 (field hdr 20 3) (field hdr 13 7) m
    (pay.length ≤ m.toNat →
      exec (.generateSystemEvent hdr pay m) s = .next { s with result := .words (last :: pay) }) ∧
    (m.toNat < pay.length → ∃ ws,
      exec (.generateSystemEvent hdr (pay.drop m.toNat) m) s = .next { s with result := .words ws } ∧
      exec (.generateSystemEvent hdr pay m) s =
        .next { s with result := .words (more :: (pay.take m.toNat ++ ws)) })

/-- Round trip (R361): a generated event, fed to a freshly reset session as one buffer or cut into several at any
points with consecutive numbers (R265), is emitted exactly once with the contents of its modules, and the last
call returns `Ok`. The premise on the scratch capacity is R264's; that on words is R361's own exception. The generator's
layout is the spec's own reconstruction (D40, log 21). -/
def Obligations.GeneratedEventsRoundTrip : Prop :=
  ∀ (s : State) (rs : ReadoutStructure) (ev : BitVec 4) (k : BitVec 3) (shapes : List ModuleShape)
    (mods : List GenModule) (m : BitVec 13) (n : BitVec 32) (ws : List Word) (buffers : List (List Word)),
    s.params.legal = true → s.parser.callOpen = false → ReadoutStructure.legal s.params rs = true →
    rs[ev.toNat]? = some shapes → List.Forall₂ GenModule.Fits mods shapes → 2 ≤ m.toNat →
    (mods.flatMap GenModule.data).length ≤ s.params.scratchWords →
    (∃ g ∈ mods, g.data ≠ [] ∨ g.dynamicWords ≠ none) →
    exec (.generateEvent ev k mods m) s = .next { s with result := .words ws } → buffers.flatten = ws →
    ∃ s1 t, exec (.sessionReset rs) s = .next s1 ∧ feedBuffers n buffers s1 = some t ∧
      t.result = .outcome .ok ∧
      t.parser.emitted = [.eventData ev.toNat (mods.map GenModule.emission)]

/-- A generated system event, fed as one buffer without loss in Idle or between stack frames, is emitted whole
and disturbs no event register (R260, R261, R364). The generator's layout is the spec's own reconstruction (D40, log 21). -/
def Obligations.GeneratedSystemEventRoundTrips : Prop :=
  ∀ (s : State) (hdr : Word) (pay ws : List Word) (m : BitVec 13) (n : BitVec 32),
    s.params.legal = true → s.parser.session = true → s.parser.callOpen = false →
    s.parser.bufSeqValid = false ∨ n = s.parser.lastBufferNumber + 1 →
    s.parser.eventIndex < 0 ∨ s.parser.stackF.left = 0 → 2 ≤ m.toNat →
    exec (.generateSystemEvent hdr pay m) s = .next { s with result := .words ws } →
    let o : ParseOutcome := if s.parser.eventIndex < 0 then .ok else .needMoreInput
    exec (.parseUsbBuffer n ws) s = .next { s with
      result := .outcome o
      parser := { s.parser with
        lastBufferNumber := n, bufSeqValid := true, call := .idle
        emitted := s.parser.emitted ++ [.systemEvent ws]
        counters := { s.parser.counters with
          bytesProcessed := s.parser.counters.bytesProcessed + BitVec.ofNat 64 (4 * ws.length)
          parseResults := s.parser.counters.parseResults.bump o } } }

/-! ## Header words and data words in the parser -/

/-- The step runs what it fetches: the header word the open call reads next, decoded; else the next scheduled
transition; else the reader's step (R11, R240, R300, R323; the schedule is the model's, log 6). A turn to another engine
puts it and its callers in the place of the present ones, which stay unchanged, and a turn to another session puts it in
the place of the present one, which stays unchanged (R414; log 19, 24). -/
def Obligations.StepRunsWhatItFetches : Prop :=
  ∀ s : State,
    (∀ pos w i, s.parser.nextWord = some (pos, w) → decodeAt s.params pos w = .ok i → step s = exec i s) ∧
    (∀ i es, s.parser.nextWord = none → s.schedule = .op i :: es → step s = exec i { s with schedule := es }) ∧
    (∀ c ok es, s.parser.nextWord = none → s.schedule = .caller c ok :: es →
      step s = .next ({ s with schedule := es }.callerStep c ok)) ∧
    (∀ k es, s.parser.nextWord = none → s.schedule = .turnToEngine k :: es →
      (∀ c, s.otherEngines[k]? = some c → step s = .next { s with
        schedule := es, engine := c.engine, callers := c.callers
        otherEngines := s.otherEngines.set k ⟨s.engine, s.callers⟩ }) ∧
      (s.otherEngines.length ≤ k → step s = .next { s with schedule := es })) ∧
    (∀ k es, s.parser.nextWord = none → s.schedule = .turnToSession k :: es →
      (∀ P, s.otherSessions[k]? = some P → step s = .next { s with
        schedule := es, parser := P, otherSessions := s.otherSessions.set k s.parser }) ∧
      (s.otherSessions.length ≤ k → step s = .next { s with schedule := es })) ∧
    (s.parser.nextWord = none → s.schedule = [] → step s = exec .readerStep s)

/-- No word stops the parser (R111): while a call reads words, the step always has a next state; on a word of
the unit, of whatever type, it is one iteration of the loop (R240), and a header instruction read there does
what the step does. -/
def Obligations.NoWordStopsTheParser : Prop :=
  ∀ (s : State) (pos : Position) (w : Word), s.parser.nextWord = some (pos, w) →
    (∃ t, step s = .next t) ∧
    (pos = .frame → step s = .next (s.afterWord (s.parser.unitWord s.params w))) ∧
    ∀ i, s.Reads i → exec i s = step s

/-- After a word of a unit: with words left, nothing more; at the unit's end its outcome is counted (R189) and a
USB call, or an ETH call with no packet left, returns its first error or its state (R190), a single trailing
word counting as unused (R185); else the next packet header is awaited. -/
def Obligations.UnitEndFormsTheOutcome : Prop :=
  ∀ (s : State) (Q : Parser),
    let u : Option ParseOutcome :=
      if Q.call.unitFirst ≠ none then none
      else if Q.call.unitStartedIdle = true ∧ Q.call.unitTook = false ∧ Q.call.unitSkipped = true then
        some .noStackFrameFound
      else if 0 ≤ Q.eventIndex then some .needMoreInput else some .ok
    let first := if u = some .noStackFrameFound then Q.call.callFirst.or u else Q.call.callFirst
    let counted (extra : Nat) : ParserCounters := { Q.counters with
      unusedBytes := Q.counters.unusedBytes + BitVec.ofNat 64 extra
      parseResults := match u with
        | some o => Q.counters.parseResults.bump o
        | none => Q.counters.parseResults }
    let ended (extra : Nat) : State := { s with
      result := .outcome (first.getD (if 0 ≤ Q.eventIndex then .needMoreInput else .ok))
      parser := { Q with call := .idle, counters := counted extra } }
    (Q.call.rp < Q.call.unit.length → s.afterWord Q.unitProgress = { s with parser := Q }) ∧
    (Q.call.unit.length ≤ Q.call.rp →
      (Q.call.stage = .usbUnit → s.afterWord Q.unitProgress = ended 0) ∧
      (Q.call.stage = .ethUnit [] → s.afterWord Q.unitProgress = ended 0) ∧
      (∀ w, Q.call.stage = .ethUnit [w] → s.afterWord Q.unitProgress = ended 4) ∧
      (∀ w0 w1 rest, Q.call.stage = .ethUnit (w0 :: w1 :: rest) →
        s.afterWord Q.unitProgress = { s with parser := { Q with
          counters := counted 0
          call := { Q.call with callFirst := first, stage := .ethHeader0 (w0 :: w1 :: rest) } } }))

/-- In Idle a SuperFrame or StackError frame is skipped with its payload, as far as the unit holds it (R243). -/
def Obligations.ForeignFramesAreSkippedInIdle : Prop :=
  ∀ (s : State) (f n : BitVec 4) (c : BitVec 3) (l : BitVec 13), s.params.legal = true →
    s.parser.eventIndex < 0 →
    let k := min (1 + l.toNat) (s.parser.call.unit.length - s.parser.call.rp)
    let P := { s.parser with call := { s.parser.call with raised := false, unitSkipped := true } }
    (s.Reads (.super f n c l) →
      exec (.super f n c l) s = .next (s.afterWord (P.afterUnused k).unitProgress)) ∧
    (s.Reads (.stkerr f n c l) →
      exec (.stkerr f n c l) s = .next (s.afterWord (P.afterUnused k).unitProgress))

/-- In Idle a BlockRead or StackContinuation header is skipped alone, four unused bytes; so is any word that is
no header of a recognised type (R244). -/
def Obligations.OtherWordsAreSkippedInIdle : Prop :=
  ∀ (s : State), s.params.legal = true → s.parser.eventIndex < 0 →
    let P := { s.parser with call := { s.parser.call with raised := false, unitSkipped := true } }
    (∀ f n c l, s.Reads (.block f n c l) →
      exec (.block f n c l) s = .next (s.afterWord (P.afterUnused 1).unitProgress)) ∧
    (∀ f n c l, s.Reads (.cont f n c l) →
      exec (.cont f n c l) s = .next (s.afterWord (P.afterUnused 1).unitProgress)) ∧
    (∀ w, s.parser.nextWord = some (.frame, w) → frameKind s.params (typeOf w) = .notRecognized →
      step s = .next (s.afterWord (P.afterUnused 1).unitProgress))

/-- A StackFrame header in Idle that starts no event (R242): length 0 is counted and tolerated; a stack number
that selects no row, a row without modules, or a block left open, which no run reaches (R242), is an error that counts
the header as unused. -/
def Obligations.StackHeadersThatStartNoEvent : Prop :=
  ∀ (s : State) (f n : BitVec 4) (c : BitVec 3) (l : BitVec 13), s.params.legal = true →
    s.parser.eventIndex < 0 → s.Reads (.stack f n c l) →
    let P := { s.parser with call := { s.parser.call with raised := false, unitTook := true } }
    let moved := { P with call := { P.call with rp := P.call.rp + 1 } }
    (l = 0 → exec (.stack f n c l) s = .next (s.afterWord (Parser.unitProgress { moved with
      counters := { moved.counters with parseResults := { moved.counters.parseResults with
        emptyStackFrame := moved.counters.parseResults.emptyStackFrame + 1 } } }))) ∧
    (l ≠ 0 → n = 0 ∨ s.parser.rs.length < n.toNat → exec (.stack f n c l) s =
      .next (s.afterWord ((P.afterUnused 1).afterError .stackIndexOutOfRange).unitProgress)) ∧
    (l ≠ 0 → n ≠ 0 → s.parser.rs[n.toNat - 1]? = some [] → exec (.stack f n c l) s =
      .next (s.afterWord ((P.afterUnused 1).afterError .unexpectedNonEmptyStackFrame).unitProgress)) ∧
    (l ≠ 0 → n ≠ 0 → ∀ mod row, s.parser.rs[n.toNat - 1]? = some (mod :: row) → s.parser.blockF.left ≠ 0 →
      exec (.stack f n c l) s =
        .next (s.afterWord ((P.afterUnused 1).afterError .unexpectedOpenBlockOnNewEvent).unitProgress))

/-- A StackFrame header in Idle starts the event of its stack number (R242, R245): its modules are entered from the
first on (R246, R247), and where no module of the row needs a word, the event is emitted at once, every module empty,
with its counters updated (R257 to R259). -/
def Obligations.StackHeadersStartEvents : Prop :=
  ∀ (s : State) (f n : BitVec 4) (c : BitVec 3) (l : BitVec 13) (row : List ModuleShape), s.params.legal = true →
    s.parser.eventIndex < 0 → s.Reads (.stack f n c l) → l ≠ 0 → n ≠ 0 →
    s.parser.rs[n.toNat - 1]? = some row → row ≠ [] → s.parser.blockF.left = 0 →
    let R := { s.parser with
      eventIndex := n.toNat - 1, moduleIndex := 0, phase := .prefixPhase
      stackF := ⟨packHeader 0xF3#8 f (n ++ c) l, l⟩, blockF := ⟨0, 0⟩, used := 0, spans := []
      call := { s.parser.call with rp := s.parser.call.rp + 1, unitTook := true, raised := false } }
    R.modules = row ∧
    ∃ Q : Parser, exec (.stack f n c l) s = .next (s.afterWord Q.unitProgress) ∧ R.EntersFrom 0 Q

/-- Between stack frames a StackContinuation of the same stack number continues the event; one of another stack
number, any other frame that is no SystemEvent, or a word of no recognised type, is an error, and the word is not
consumed (R254). -/
def Obligations.OnlyItsContinuationContinuesAnEvent : Prop :=
  ∀ (s : State) (f n : BitVec 4) (c : BitVec 3) (l : BitVec 13), s.params.legal = true →
    0 ≤ s.parser.eventIndex → s.parser.stackF.left = 0 →
    let P := { s.parser with call := { s.parser.call with raised := false } }
    (s.Reads (.cont f n c l) → n = stackNumOf s.parser.stackF.hdr →
      exec (.cont f n c l) s = .next (s.afterWord (Parser.unitProgress { P with
        stackF := ⟨packHeader 0xF9#8 f (n ++ c) l, l⟩
        call := { P.call with rp := P.call.rp + 1 } }))) ∧
    (s.Reads (.cont f n c l) → n ≠ stackNumOf s.parser.stackF.hdr →
      exec (.cont f n c l) s = .next (s.afterWord (P.afterError .stackIndexChanged).unitProgress)) ∧
    (∀ i ∈ [Instr.stack f n c l, .block f n c l, .super f n c l, .stkerr f n c l], s.Reads i →
      exec i s = .next (s.afterWord (P.afterError .unexpectedFrameType).unitProgress)) ∧
    ∀ w, s.parser.nextWord = some (.frame, w) → frameKind s.params (typeOf w) = .notRecognized →
      step s = .next (s.afterWord (P.afterError .unexpectedFrameType).unitProgress)

/-- In the Dynamic phase with no block words left, a BlockRead header opens the block and counts toward the stack
frame, keeping Dynamic while it has words or Continue, and ending the dynamic part otherwise (where the module is then
complete, CompletedModulesGoOnOrEmit says what follows); any other header, or a word of no recognised type, is an error
and is not consumed (R247, R250, R251). -/
def Obligations.OnlyBlockHeadersOpenBlocks : Prop :=
  ∀ (s : State) (f n : BitVec 4) (c : BitVec 3) (l : BitVec 13), s.params.legal = true →
    0 ≤ s.parser.eventIndex → s.parser.stackF.left ≠ 0 → s.parser.phase = .dynamicPhase →
    s.parser.blockF.left = 0 →
    let P := { s.parser with call := { s.parser.call with raised := false } }
    let opened := { P with
      stackF := { P.stackF with left := P.stackF.left - 1 }
      blockF := ⟨packHeader 0xF5#8 f (n ++ c) l, l⟩
      call := { P.call with rp := P.call.rp + 1 } }
    (s.Reads (.block f n c l) → l ≠ 0 ∨ f.getLsbD 3 = true →
      exec (.block f n c l) s = .next (s.afterWord opened.unitProgress)) ∧
    (s.Reads (.block f n c l) → l = 0 → f.getLsbD 3 = false → ∀ mod, s.parser.currentModule = some mod →
      (s.parser.span s.parser.moduleIndex.toNat).suffixSpan.size ≠ mod.suffixLen.toNat →
      ∃ Q : Parser, exec (.block f n c l) s = .next (s.afterWord Q.unitProgress) ∧
        Q = { opened with phase := .suffixPhase, spans := Q.spans } ∧
        ∀ m, Q.span m = if m = s.parser.moduleIndex.toNat then
          { s.parser.span m with suffixSpan := { (s.parser.span m).suffixSpan with off := s.parser.used } }
          else s.parser.span m) ∧
    (∀ ib : BitVec 1, ∀ it : BitVec 7,
      ∀ i ∈ [Instr.stack f n c l, .cont f n c l, .super f n c l, .stkerr f n c l, .sysev ib c it l], s.Reads i →
        exec i s = .next (s.afterWord (P.afterError .unexpectedFrameType).unitProgress)) ∧
    ∀ w, s.parser.nextWord = some (.frame, w) → frameKind s.params (typeOf w) = .notRecognized →
      step s = .next (s.afterWord (P.afterError .unexpectedFrameType).unitProgress)

/-- A payload word of a stack frame, whatever it looks like, is copied to the scratch word at `used` and counted in
the part of the current module that the phase names (R248, R249, R252, R253): no other word of the scratch
buffer, no other span and no other register changes. Where the word completes the prefix or the dynamic part,
the next part that needs a word is entered, its offset at the new `used` (R247); where it completes the module,
CompletedModulesGoOnOrEmit says what follows. -/
def Obligations.PayloadWordsAreCopied : Prop :=
  ∀ (s : State) (w : Word) (mod : ModuleShape) (ph : Phase) (sp : Span) (block : Cursor),
    s.parser.nextWord = some (.frame, w) → 0 ≤ s.parser.eventIndex → s.parser.stackF.left ≠ 0 →
    s.parser.used < s.params.scratchWords → s.parser.currentModule = some mod →
    let old := s.parser.span s.parser.moduleIndex.toNat
    let b := s.parser.blockF
    let next := s.parser.used + 1
    let pre : Extent := ⟨old.prefixSpan.off, old.prefixSpan.size + 1⟩
    let dyn : Extent := ⟨old.dynamicSpan.off, old.dynamicSpan.size + 1⟩
    let suf : Extent := ⟨old.suffixSpan.off, old.suffixSpan.size + 1⟩
    (s.parser.phase = .prefixPhase ∧
        (pre.size ≠ mod.prefixLen.toNat ∧
            ph = .prefixPhase ∧ sp = ⟨pre, old.dynamicSpan, old.suffixSpan⟩ ∧ block = b ∨
          pre.size = mod.prefixLen.toNat ∧ mod.hasDynamic = true ∧
            ph = .dynamicPhase ∧ sp = ⟨pre, ⟨next, old.dynamicSpan.size⟩, old.suffixSpan⟩ ∧ block = ⟨0, 0⟩ ∨
          pre.size = mod.prefixLen.toNat ∧ mod.hasDynamic = false ∧
            old.suffixSpan.size ≠ mod.suffixLen.toNat ∧
            ph = .suffixPhase ∧ block = b ∧
            sp = ⟨pre, ⟨next, old.dynamicSpan.size⟩, ⟨next, old.suffixSpan.size⟩⟩) ∨
      s.parser.phase = .dynamicPhase ∧ b.left ≠ 0 ∧ block = ⟨b.hdr, b.left - 1⟩ ∧
        ((b.left ≠ 1 ∨ hasContinue b.hdr = true) ∧
            ph = .dynamicPhase ∧ sp = ⟨old.prefixSpan, dyn, old.suffixSpan⟩ ∨
          b.left = 1 ∧ b.hdr ≠ 0 ∧ hasContinue b.hdr = false ∧ old.suffixSpan.size ≠ mod.suffixLen.toNat ∧
            ph = .suffixPhase ∧ sp = ⟨old.prefixSpan, dyn, ⟨next, old.suffixSpan.size⟩⟩) ∨
      s.parser.phase = .suffixPhase ∧ suf.size ≠ mod.suffixLen.toNat ∧
        ph = .suffixPhase ∧ sp = ⟨old.prefixSpan, old.dynamicSpan, suf⟩ ∧ block = b) →
    ∃ Q : Parser, step s = .next (s.afterWord Q.unitProgress) ∧
      Q = { s.parser with
        scratch := Q.scratch, spans := Q.spans, used := next, phase := ph, blockF := block
        stackF := { s.parser.stackF with left := s.parser.stackF.left - 1 }
        call := { s.parser.call with rp := s.parser.call.rp + 1, raised := false } } ∧
      (∀ a, Memory.readWord Q.scratch a =
        if a = s.parser.used then w else Memory.readWord s.parser.scratch a) ∧
      ∀ m, Q.span m = if m = s.parser.moduleIndex.toNat then sp else s.parser.span m

/-- A copy into a full scratch buffer is an internal fault: it is counted as an exception, the event is
discarded, and the rest of the unit is given up as unused (R252, R264, R403). -/
def Obligations.FullScratchAbandonsTheUnit : Prop :=
  ∀ (s : State) (w : Word), s.parser.nextWord = some (.frame, w) → 0 ≤ s.parser.eventIndex →
    s.parser.stackF.left ≠ 0 → s.parser.used = s.params.scratchWords →
    s.parser.phase ≠ .dynamicPhase ∨ s.parser.blockF.left ≠ 0 →
    let P := { s.parser with counters := { s.parser.counters with
      exceptionCount := s.parser.counters.exceptionCount + 1 } }
    step s = .next (s.afterWord
      ((P.afterError .unhandledException).afterUnused
        (s.parser.call.unit.length - s.parser.call.rp)).unitProgress)

/-- What completes a module (R247, R252): the last word of its prefix where it has no other part, the last word of its
dynamic part where it has no suffix, the last word of its suffix, or a BlockRead header of length 0 without Continue
where it has no suffix (R250). Then the modules after it are entered (R246), modules `(0, 0, 0)` passed over; where none
of them needs a word, the event is emitted and its counters updated (R257 to R259). -/
def Obligations.CompletedModulesGoOnOrEmit : Prop :=
  ∀ (s : State) (mod : ModuleShape), 0 ≤ s.parser.eventIndex → s.parser.eventIndex < 15 →
    s.parser.stackF.left ≠ 0 → s.parser.currentModule = some mod →
    let m := s.parser.moduleIndex.toNat
    let old := s.parser.span m
    let b := s.parser.blockF
    let next := s.parser.used + 1
    let taken := { s.parser with
      phase := .suffixPhase
      stackF := { s.parser.stackF with left := s.parser.stackF.left - 1 }
      call := { s.parser.call with rp := s.parser.call.rp + 1, raised := false } }
    (∀ (w : Word) (sp : Span), s.parser.nextWord = some (.frame, w) → s.parser.used < s.params.scratchWords →
      (s.parser.phase = .prefixPhase ∧ old.prefixSpan.size + 1 = mod.prefixLen.toNat ∧ mod.hasDynamic = false ∧
          old.suffixSpan.size = mod.suffixLen.toNat ∧
          sp = ⟨⟨old.prefixSpan.off, old.prefixSpan.size + 1⟩, ⟨next, old.dynamicSpan.size⟩,
            ⟨next, old.suffixSpan.size⟩⟩ ∨
        s.parser.phase = .dynamicPhase ∧ b.left = 1 ∧ b.hdr ≠ 0 ∧ hasContinue b.hdr = false ∧
          old.suffixSpan.size = mod.suffixLen.toNat ∧
          sp = ⟨old.prefixSpan, ⟨old.dynamicSpan.off, old.dynamicSpan.size + 1⟩, ⟨next, old.suffixSpan.size⟩⟩ ∨
        s.parser.phase = .suffixPhase ∧ old.suffixSpan.size + 1 = mod.suffixLen.toNat ∧
          sp = ⟨old.prefixSpan, old.dynamicSpan, ⟨old.suffixSpan.off, old.suffixSpan.size + 1⟩⟩) →
      ∃ R Q : Parser, step s = .next (s.afterWord Q.unitProgress) ∧
        R = { taken with used := next, scratch := R.scratch, spans := R.spans } ∧
        (∀ a, Memory.readWord R.scratch a =
          if a = s.parser.used then w else Memory.readWord s.parser.scratch a) ∧
        (∀ j, R.span j = if j = m then sp else s.parser.span j) ∧ R.EntersFrom (m + 1) Q) ∧
    ∀ (f n : BitVec 4) (c : BitVec 3), s.params.legal = true → s.Reads (.block f n c 0) → f.getLsbD 3 = false →
      s.parser.phase = .dynamicPhase → b.left = 0 → old.suffixSpan.size = mod.suffixLen.toNat →
      ∃ R Q : Parser, exec (.block f n c 0) s = .next (s.afterWord Q.unitProgress) ∧
        R = { taken with spans := R.spans } ∧
        (∀ j, R.span j = if j = m then
          { old with suffixSpan := { old.suffixSpan with off := s.parser.used } } else s.parser.span j) ∧
        R.EntersFrom (m + 1) Q

/-- A chain of SystemEvent sections in Idle or between stack frames (R260 to R262): whole, it is emitted with its
headers and no event register changes; broken by another word, or by the unit's end, it is dropped up to
there, counted unused, and the event is discarded. -/
def Obligations.SystemEventChainsAreEmittedOrDropped : Prop :=
  ∀ (s : State) (ib : BitVec 1) (k : BitVec 3) (it : BitVec 7) (l : BitVec 13) (done : List Word),
    s.params.legal = true → s.Reads (.sysev ib k it l) →
    s.parser.eventIndex < 0 ∨ s.parser.stackF.left = 0 → OpenChain done →
    let P := { s.parser with call := { s.parser.call with raised := false } }
    let ahead := s.parser.call.unit.drop s.parser.call.rp
    (∀ h pay rest, ahead = done ++ h :: (pay ++ rest) → typeOf h = 0xFA#8 → hasContinue h = false →
      pay.length = payloadWords h →
      exec (.sysev ib k it l) s = .next (s.afterWord (Parser.unitProgress { P with
        emitted := P.emitted ++ [.systemEvent (done ++ h :: pay)]
        call := { P.call with rp := P.call.rp + (done ++ h :: pay).length, unitTook := true } }))) ∧
    (∀ rest, ahead = done ++ rest → done ≠ [] → (∀ x ∈ rest.head?, typeOf x ≠ 0xFA#8) →
      exec (.sysev ib k it l) s = .next (s.afterWord
        ((P.afterUnused done.length).afterError .systemEventDropped).unitProgress)) ∧
    (∀ h rest, ahead = done ++ h :: rest → typeOf h = 0xFA#8 → rest.length < payloadWords h →
      exec (.sysev ib k it l) s = .next (s.afterWord
        ((P.afterUnused ahead.length).afterError .systemEventDropped).unitProgress))

/-- The first word of an ETH packet header checks the packet number (R186): a gap counts the packets lost and
clears the event; the word is kept for the second one (R185). -/
def Obligations.Eth0ChecksThePacketNumber : Prop :=
  ∀ (s : State) (ch : BitVec 4) (n : BitVec 12) (g : BitVec 3) (d : BitVec 13) (rest : List Word),
    s.parser.call.stage = .ethHeader0 (packEth0 ch n g d :: rest) →
    let P := { s.parser with
      lastPacketNumber := n, pktSeqValid := true
      call := { s.parser.call with stage := .ethHeader1 (packEth0 ch n g d) rest } }
    (s.parser.pktSeqValid = false ∨ n = s.parser.lastPacketNumber + 1 →
      exec (.eth0 ch n g d) s = .next { s with parser := P }) ∧
    (s.parser.pktSeqValid = true → n ≠ s.parser.lastPacketNumber + 1 →
      exec (.eth0 ch n g d) s = .next { s with parser := { P with
        eventIndex := -1, moduleIndex := -1, phase := .prefixPhase, stackF := ⟨0, 0⟩, blockF := ⟨0, 0⟩
        spans := [], scratch := [], used := 0
        counters := { P.counters with ethPacketLoss :=
          P.counters.ethPacketLoss + (n - s.parser.lastPacketNumber - 1).setWidth 64 } } })

/-- The second word opens the packet's unit (R185, R187, R188): all data words where an event goes on, else from
the header pointer, else none; the words before the start count as unused. A packet cut short keeps the words
present. The timestamp is not used. -/
def Obligations.Eth1OpensThePacketsUnit : Prop :=
  ∀ (s : State) (w0 : Word) (ts : BitVec 20) (hp : BitVec 12) (rest : List Word),
    s.parser.call.stage = .ethHeader1 w0 (packEth1 ts hp :: rest) →
    let n := min (w0.toNat % 2 ^ 13) rest.length
    let start := if 0 ≤ s.parser.eventIndex then 0 else if hp ≠ 0xFFF#12 ∧ hp.toNat < n then hp.toNat else n
    exec (.eth1 ts hp) s = .next (s.afterWord (Parser.unitProgress { s.parser with
      counters := { s.parser.counters with
        unusedBytes := s.parser.counters.unusedBytes + BitVec.ofNat 64 (4 * start) }
      call := { s.parser.call with
        stage := .ethUnit (rest.drop n), unit := rest.take n, rp := start, unitFirst := none
        unitStartedIdle := decide (s.parser.eventIndex < 0), unitTook := false
        unitSkipped := decide (0 < start), raised := false } }))

/-! ## The reader -/

/-- A reader step touches nothing but the correlator (R308, R313, R330); that it answers a next state also where R308
and R313 do not enable it is the model's deduction (log 7). A header word acts
only where it stands: at the position of the open call that selects its format (R108, R110), or, for a frame
header with no call open, at the head of the command FIFO, where it does what a reader step does; elsewhere it
is refused. That the header instruction acts on both pipes and the refusal are the model's reading (log 12). -/
def Obligations.HeaderWordsActOnlyWhereTheyStand : Prop :=
  ∀ s : State, (∃ T, exec .readerStep s = .next { s with engine := T }) ∧
    (∀ i, s.AtHead i → positionOf i = .frame → exec i s = exec .readerStep s) ∧
    ∀ i, isHeaderWord i = true → ¬ s.Reads i → positionOf i ≠ .frame ∨ ¬ s.AtHead i →
      exec i s = .refused .notAtThisPosition

/-- The reader with no chain being collected (R308): a word that is no good header is dropped and counted. Where it is
not enabled, or waits for the rest of a frame, the agent has no step (R10); that the model's step then leaves the state
as it is, is its deduction (log 7). -/
def Obligations.ReaderSkipsAndWaits : Prop :=
  ∀ s : State,
    (s.engine.running = false ∨ s.engine.fifo = [] → exec .readerStep s = .next s) ∧
    ∀ w rest, s.engine.running = true → s.engine.collecting = false → s.engine.fifo = w :: rest →
      (isGoodHeader s.params w = false → exec .readerStep s = .next { s with engine := { s.engine with
        fifo := rest
        counters := { s.engine.counters with skippedWords := s.engine.counters.skippedWords + 1 } } }) ∧
      (isGoodHeader s.params w = true → rest.length < w.toNat % 2 ^ 13 → exec .readerStep s = .next s)

/-- A complete SuperFrame at the head leaves the FIFO and is judged against the super slot alone (R308, R309,
R310). That the reference stands in bits 15:0 of the first payload word is general knowledge by the spec's own mark (D23,
log 22, PRESUMED). -/
def Obligations.SuperRepliesAreJudged : Prop :=
  ∀ (s : State) (f n : BitVec 4) (c : BitVec 3) (l : BitVec 13) (pay rest : List Word),
    s.parser.callOpen = false → s.engine.running = true → s.engine.collecting = false →
    s.engine.fifo = packHeader s.params.typeSuper f (n ++ c) l :: (pay ++ rest) → pay.length = l.toNat →
    ∃ U, exec (.super f n c l) s = .next { s with engine := U } ∧
      SuperJudged s.params pay { s.engine with fifo := rest } U

/-- A complete StackFrame at the head leaves the FIFO: without Continue it is judged against the stack slot at
once, with Continue its payload is collected as far as it fits (R308, R311, R312, R314). That the reference is the
whole first payload word is general knowledge by the spec's own mark (D23, log 22, PRESUMED). -/
def Obligations.StackRepliesOpenChains : Prop :=
  ∀ (s : State) (f n : BitVec 4) (c : BitVec 3) (l : BitVec 13) (pay rest : List Word),
    s.params.legal = true → s.parser.callOpen = false → s.engine.running = true →
    s.engine.collecting = false →
    s.engine.fifo = packHeader 0xF3#8 f (n ++ c) l :: (pay ++ rest) → pay.length = l.toNat →
    let T := { s.engine with fifo := rest, chainStack := n }
    ∃ U, exec (.stack f n c l) s = .next { s with engine := U } ∧
      (f.getLsbD 3 = false → StackJudged s.params pay false T U) ∧
      (f.getLsbD 3 = true → U = { T with
        collecting := true, chainBroken := false
        chainWords := pay.take s.params.respMaxWords
        chainOverflow := decide (s.params.respMaxWords < pay.length) })

/-- While collecting, a complete StackContinuation of the chain's stack adds its payload as far as it fits, and
without Continue finishes the chain; any other word at the head breaks the chain: it is counted, the chain is judged as
broken, and the word stays at the head (R312, R313, R314). That an incomplete one leaves the state as it is, is the
model's deduction (log 7); that the reference is the whole first payload word is general knowledge by the spec's own
mark (D23, log 22, PRESUMED). -/
def Obligations.ContinuationsExtendTheChainOthersBreakIt : Prop :=
  ∀ s : State, s.params.legal = true → s.engine.Inv s.params → s.engine.running = true →
    s.engine.collecting = true →
    (∀ (f : BitVec 4) (c : BitVec 3) (l : BitVec 13) (tail : List Word), s.parser.callOpen = false →
      s.engine.fifo = packHeader 0xF9#8 f (s.engine.chainStack ++ c) l :: tail →
      let i := Instr.cont f s.engine.chainStack c l
      (tail.length < l.toNat → exec i s = .next s) ∧
      ∀ pay rest, tail = pay ++ rest → pay.length = l.toNat →
        let T := { s.engine with fifo := rest }
        let chain := s.engine.chainWords ++ pay
        let bad := s.engine.chainOverflow || decide (s.params.respMaxWords < chain.length)
        ∃ U, exec i s = .next { s with engine := U } ∧
          (f.getLsbD 3 = true → U = { T with
            chainWords := chain.take s.params.respMaxWords, chainOverflow := bad }) ∧
          (f.getLsbD 3 = false → StackJudged s.params (chain.take s.params.respMaxWords) bad T U)) ∧
    ∀ (w : Word) (rest : List Word), s.engine.fifo = w :: rest →
      ¬ (typeOf w = 0xF9#8 ∧ stackNumOf w = s.engine.chainStack) →
      ∃ U, exec .readerStep s = .next { s with engine := U } ∧ U.fifo = w :: rest ∧
        StackJudged s.params s.engine.chainWords true { s.engine with
          counters := { s.engine.counters with
            stackChainBroken := s.engine.counters.stackChainBroken + 1 } } U

/-- A complete StackError frame at the head is counted under its stack, line and flags, or as a non-error frame
where the stack is 8 or more or there is no payload; no slot is touched (R308, R309, R315). That the line stands in
bits 15:0 of the first payload word is general knowledge by the spec's own mark (D31, log 22, PRESUMED). -/
def Obligations.StackErrorsAreCounted : Prop :=
  ∀ (s : State) (f n : BitVec 4) (c : BitVec 3) (l : BitVec 13) (pay rest : List Word),
    s.params.legal = true → s.parser.callOpen = false → s.engine.running = true →
    s.engine.collecting = false →
    s.engine.fifo = packHeader s.params.typeStackErr f (n ++ c) l :: (pay ++ rest) → pay.length = l.toNat →
    ∃ SE : StackErrorCounters, exec (.stkerr f n c l) s =
        .next { s with engine := { s.engine with fifo := rest, stackErrors := SE } } ∧
      (8 ≤ n.toNat ∨ pay = [] → SE = { s.engine.stackErrors with
        nonErrorFrames := s.engine.stackErrors.nonErrorFrames + 1 }) ∧
      ∀ w ∈ pay.head?, n.toNat < 8 → SE.nonErrorFrames = s.engine.stackErrors.nonErrorFrames ∧
        ∀ stack line flags, SE.count stack line flags = s.engine.stackErrors.count stack line flags +
          if stack = n ∧ line.toNat = w.toNat % 2 ^ 16 ∧ flags = f then 1 else 0

/-- No FIFO content stops the reader (R330): while it runs on a nonempty FIFO, a step takes a word from the head,
or ends a broken chain, or waits for a frame that the FIFO has room for. -/
def Obligations.TheReaderNeverSticks : Prop :=
  ∀ (s : State) (w : Word) (rest : List Word), s.params.legal = true → s.engine.running = true →
    s.engine.fifo = w :: rest → ∃ t, exec .readerStep s = .next t ∧
      (t.engine.fifo.length < s.engine.fifo.length ∨
        s.engine.collecting = true ∧ t.engine.collecting = false ∧ t.engine.fifo = s.engine.fifo ∨
        t = s ∧ rest.length < w.toNat % 2 ^ 13 ∧ 1 + w.toNat % 2 ^ 13 ≤ s.params.cmdFifoWords)

/-! ## The transport, the host and the callers -/

/-- A delivery that fits a running engine's FIFO is appended in order, and then a stop request is honoured (R76,
R307); one that does not fit, or with the reader stopped, does not happen (R79, R307), and that it then leaves the state
as it is, is the model's deduction (log 7). -/
def Obligations.DeliveriesAppendAtTheTail : Prop :=
  ∀ (s : State) (ws : List Word), ws ≠ [] →
    (s.engine.running = true → s.engine.fifo.length + ws.length ≤ s.params.cmdFifoWords →
      let T := { s.engine with fifo := s.engine.fifo ++ ws }
      (s.engine.stopReq = false → exec (.rxWords ws) s = .next { s with engine := T }) ∧
      (s.engine.stopReq = true → exec (.rxWords ws) s = .next { s with engine := T.afterShutdown })) ∧
    (s.engine.running = false ∨ s.params.cmdFifoWords < s.engine.fifo.length + ws.length →
      exec (.rxWords ws) s = .next s)

/-- The other events of R409, each with its whole effect: a read timeout of a running engine is counted and then a
stop request is honoured (R316); a disconnect shuts a running engine down (R317, R320); with the reader stopped
neither is enabled, and that it then leaves the state as it is, is the model's deduction (log 7); `request_stop` sets
the stop flag (R318) and `clear_stack_error_counters` sets every count of the stack-error counters to 0 (R322), and
nothing else. -/
def Obligations.TransportAndHostEventsHaveTheirEffect : Prop :=
  ∀ s : State,
    let T := { s.engine with counters := { s.engine.counters with
      readTimeouts := s.engine.counters.readTimeouts + 1 } }
    (s.engine.running = true →
      (s.engine.stopReq = false → exec .rxTimeout s = .next { s with engine := T }) ∧
      (s.engine.stopReq = true → exec .rxTimeout s = .next { s with engine := T.afterShutdown }) ∧
      exec .rxDisconnect s = .next { s with engine := s.engine.afterShutdown }) ∧
    (s.engine.running = false → exec .rxTimeout s = .next s ∧ exec .rxDisconnect s = .next s) ∧
    exec .requestStop s = .next { s with engine := { s.engine with stopReq := true } } ∧
    ∃ SE : StackErrorCounters, exec .clearStackErrorCounters s =
        .next { s with engine := { s.engine with stackErrors := SE } } ∧
      (∀ stack line flags, SE.count stack line flags = 0) ∧ SE.nonErrorFrames = 0

/-- A submission adds one caller, at its Start step, and changes no register of the correlator (R300, R301). That the
answer is the caller's index is the model's choice (log 18). -/
def Obligations.SubmissionsStartACaller : Prop :=
  ∀ (s : State) (r16 : BitVec 16) (r32 : BitVec 32) (ws : List Word),
    exec (.submitSuperTransaction r16 ws) s = .next { s with
      callers := s.callers ++ [⟨.super r16, ws, .start⟩], result := .caller s.callers.length } ∧
    exec (.submitStackTransaction r32 ws) s = .next { s with
      callers := s.callers ++ [⟨.stack r32, ws, .start⟩], result := .caller s.callers.length }

/-- Start (R301): on a running engine the caller goes on to wait for its slot, on a stopped one it is done with
Disconnected and nothing is written. WaitSlot (R302): on a stopped engine the caller is done with Disconnected; a free
slot is taken with the caller's reference in one step. WaitDone (R304): a fulfilled slot's result is taken and the slot
freed in one step. Both kinds. A caller that waits has no step (R10); that the model's step then leaves the state as it
is, is its deduction (log 7). -/
def Obligations.CallersTakeTheirSlotAndItsResult : Prop :=
  ∀ (s : State) (c : Nat) (r16 : BitVec 16) (r32 : BitVec 32) (ws : List Word) (ok : Bool),
    let super_ (k : CallerStep) : Caller := ⟨.super r16, ws, k⟩
    let stack_ (k : CallerStep) : Caller := ⟨.stack r32, ws, k⟩
    (∀ at_ ∈ [super_, stack_], s.callers[c]? = some (at_ .start) →
      (s.engine.running = true → s.callerStep c ok = { s with callers := s.callers.set c (at_ .waitSlot) }) ∧
      (s.engine.running = false →
        s.callerStep c ok = { s with callers := s.callers.set c (at_ (.done (.err .disconnected))) })) ∧
    (s.callers[c]? = some (super_ .waitSlot) →
      (s.engine.running = false →
        s.callerStep c ok = { s with callers := s.callers.set c (super_ (.done (.err .disconnected))) }) ∧
      (s.engine.running = true → s.engine.slotSuper = .free → s.callerStep c ok = { s with
        callers := s.callers.set c (super_ .writing), engine := { s.engine with slotSuper := .pending r16 } }) ∧
      (s.engine.running = true → s.engine.slotSuper ≠ .free → s.callerStep c ok = s)) ∧
    (s.callers[c]? = some (stack_ .waitSlot) →
      (s.engine.running = false →
        s.callerStep c ok = { s with callers := s.callers.set c (stack_ (.done (.err .disconnected))) }) ∧
      (s.engine.running = true → s.engine.slotStack = .free → s.callerStep c ok = { s with
        callers := s.callers.set c (stack_ .writing), engine := { s.engine with slotStack := .pending r32 } }) ∧
      (s.engine.running = true → s.engine.slotStack ≠ .free → s.callerStep c ok = s)) ∧
    (s.callers[c]? = some (super_ .waitDone) →
      (∀ res, s.engine.slotSuper = .fulfilled res → s.callerStep c ok = { s with
        callers := s.callers.set c (super_ (.done res)), engine := { s.engine with slotSuper := .free } }) ∧
      ((∀ res, s.engine.slotSuper ≠ .fulfilled res) → s.callerStep c ok = s)) ∧
    (s.callers[c]? = some (stack_ .waitDone) →
      (∀ res, s.engine.slotStack = .fulfilled res → s.callerStep c ok = { s with
        callers := s.callers.set c (stack_ (.done res)), engine := { s.engine with slotStack := .free } }) ∧
      ((∀ res, s.engine.slotStack ≠ .fulfilled res) → s.callerStep c ok = s))

/-- Writing (R303): the words go to the transport; where the write succeeds the caller waits for the reply; where
it fails, a pending slot is freed with WriteFailed, and a fulfilled one is freed and gives its result. Both
kinds. -/
def Obligations.WritingEndsAsTheTransportSays : Prop :=
  ∀ (s : State) (c : Nat) (r16 : BitVec 16) (r32 : BitVec 32) (ws : List Word),
    let super_ (k : CallerStep) : Caller := ⟨.super r16, ws, k⟩
    let stack_ (k : CallerStep) : Caller := ⟨.stack r32, ws, k⟩
    (s.callers[c]? = some (super_ .writing) →
      s.callerStep c true = { s with
        written := s.written ++ [⟨ws, true⟩], callers := s.callers.set c (super_ .waitDone) } ∧
      (s.engine.slotSuper.isPending = true → s.callerStep c false = { s with
        written := s.written ++ [⟨ws, false⟩], callers := s.callers.set c (super_ (.done (.err .writeFailed)))
        engine := { s.engine with slotSuper := .free } }) ∧
      ∀ res, s.engine.slotSuper = .fulfilled res → s.callerStep c false = { s with
        written := s.written ++ [⟨ws, false⟩], callers := s.callers.set c (super_ (.done res))
        engine := { s.engine with slotSuper := .free } }) ∧
    (s.callers[c]? = some (stack_ .writing) →
      s.callerStep c true = { s with
        written := s.written ++ [⟨ws, true⟩], callers := s.callers.set c (stack_ .waitDone) } ∧
      (s.engine.slotStack.isPending = true → s.callerStep c false = { s with
        written := s.written ++ [⟨ws, false⟩], callers := s.callers.set c (stack_ (.done (.err .writeFailed)))
        engine := { s.engine with slotStack := .free } }) ∧
      ∀ res, s.engine.slotStack = .fulfilled res → s.callerStep c false = { s with
        written := s.written ++ [⟨ws, false⟩], callers := s.callers.set c (stack_ (.done res))
        engine := { s.engine with slotStack := .free } })

/-! ## The whole machine -/

/-- A parse call run one word a step, as the schedule may ask for, ends in the very state of the atomic call, for
USB and for ETH with its packet headers (R180, R184, R185, R197, R240; the word-by-word form is the model's,
log 11). -/
def Obligations.WordByWordIsTheAtomicCall : Prop :=
  ∀ (s : State) (n : BitVec 32) (W : List Word) (es : List Event), s.parser.session = true →
    s.parser.callOpen = false →
    (∃ k t, step { s with schedule := .op (.parseUsbBuffer n W) :: es } = .next t ∧
      Sys2Proof.core.run k { s with schedule := .feedUsb n W :: es } = .next t) ∧
    (∃ k t, step { s with schedule := .op (.parseEthBuffer n W) :: es } = .next t ∧
      Sys2Proof.core.run k { s with schedule := .feedEth n W :: es } = .next t)

/-- Every unit is walked to its end in at most twice as many iterations as it has words: the loop's bound is
enough from every state; and of two iterations in a row at least one moves the read position on (R240, R263). -/
def Obligations.EveryUnitIsWalkedToItsEnd : Prop :=
  ∀ (p : Params) (P : Parser), P.call.rp ≤ P.call.unit.length →
    (P.runUnit p).call.rp = P.call.unit.length ∧ (P.runUnit p).call.unit = P.call.unit ∧
    (∀ fuel, 2 * P.call.unit.length ≤ fuel → Parser.runUnitLoop p fuel P = P.runUnit p) ∧
    ∀ w w', P.call.unit[P.call.rp]? = some w →
      let Q := P.iteration p w
      P.call.rp ≤ Q.call.rp ∧ (Q.call.unit[Q.call.rp]? = some w' → P.call.rp < (Q.iteration p w').call.rp)

/-- The outcomes that no rule can raise are never counted (R242, R263, R400): from every state in which the
invariant holds, a step that stays in the session leaves their counts as they were, and counts of 0 in every session
stay 0 whatever the step (R414; log 24). -/
def Obligations.UnreachableOutcomesStayUncounted : Prop :=
  ∀ s t : State, s.Inv → step s = .next t →
    (s.StaysInSession →
      t.parser.counters.parseResults.bufferNotAdvancing = s.parser.counters.parseResults.bufferNotAdvancing ∧
      t.parser.counters.parseResults.unexpectedOpenBlockOnNewEvent =
        s.parser.counters.parseResults.unexpectedOpenBlockOnNewEvent) ∧
    let uncounted (P : Parser) : Prop := P.counters.parseResults.bufferNotAdvancing = 0 ∧
      P.counters.parseResults.unexpectedOpenBlockOnNewEvent = 0
    (∀ P ∈ s.sessions, uncounted P) → ∀ P ∈ t.sessions, uncounted P

/-- Every event emitted matches the table of its session (R167, R258, R266): what a step that stays in the session
emits does, and whatever the step, matching emissions in every session stay so (R414; log 24). -/
def Obligations.EmittedEventsMatchTheTable : Prop :=
  ∀ s t : State, s.Inv → step s = .next t →
    (s.StaysInSession → ∃ es, t.parser.emitted = s.parser.emitted ++ es ∧ ∀ e ∈ es, e.Matches s.parser.rs) ∧
    ((∀ P ∈ s.sessions, ∀ e ∈ P.emitted, e.Matches P.rs) → ∀ P ∈ t.sessions, ∀ e ∈ P.emitted, e.Matches P.rs)

/-- What no step takes back: the emissions and the transport writes are only appended to (R77, R80), and every session
keeps its table and goes on being a session (R22, R85), also across resets and turns. Sessions share no state, and
neither do engines (R414): a step that stays in its session leaves the others as they are and does the same whatever they
are; so does a step that stays at its engine. That a record of emissions lasts as long as its session and that of the
writes survives every construction is the model's choice (log 9), that sessions and engines stand side by side in State
is its form (log 19, 24), and so is that the parameters are data no step writes (R7; log 1). -/
def Obligations.StepsOnlyAppendOutputs : Prop :=
  ∀ s t : State, step s = .next t → t.params = s.params ∧ (∃ ws, t.written = s.written ++ ws) ∧
    (∀ P ∈ s.sessions, P.session = true → ∃ Q ∈ t.sessions, Q.session = true ∧ Q.rs = P.rs ∧
      ∃ es, Q.emitted = P.emitted ++ es) ∧
    (s.StaysInSession →
      t.parser.rs = s.parser.rs ∧ t.parser.session = s.parser.session ∧
      (∃ es, t.parser.emitted = s.parser.emitted ++ es) ∧ t.otherSessions = s.otherSessions ∧
      ∀ ss, step { s with otherSessions := ss } = .next { t with otherSessions := ss }) ∧
    (s.StaysAtEngine → t.otherEngines = s.otherEngines ∧
      ∀ cs, step { s with otherEngines := cs } = .next { t with otherEngines := cs })

/-- A stopped engine stays stopped until a new one is constructed (R48, R418) or the host turns to another (log 19), and
only a transport event stops a running one (R330). Once it is stopped every caller of it finishes (R321, R331): whatever
the transport answers, a caller is done after at most two steps of its own. -/
def Obligations.StoppedEnginesStayStoppedAndTheirCallersFinish : Prop :=
  (∀ s t : State, step s = .next t → s.StaysAtEngine →
    (s.engine.running = false → t.engine.running = false) ∧
    (s.engine.running = true → t.engine.running = false → ∃ es,
      s.schedule = .op .rxDisconnect :: es ∨ s.engine.stopReq = true ∧
        (s.schedule = .op .rxTimeout :: es ∨ ∃ ws, s.schedule = .op (.rxWords ws) :: es))) ∧
  ∀ (s : State) (c : Nat) (ok ok' : Bool), s.engine.running = false → s.engineInv → s.exclusion →
    c < s.callers.length → ∃ a, ((s.callerStep c ok).callerStep c ok').callers[c]? = some a ∧ a.isDone = true

/-! ## Invariants -/

/-- Every step keeps the parser's invariant, in every session (R414; log 24): the state-machine registers (R23, R24,
R31), the contiguous layout of the scratch buffer (R78, R266), its addresses and capacity (R29, R73), and the canonical
form of every table (log 13, 14); and no session but the present one has a call open (R11). -/
def Obligations.StepKeepsTheParserInvariant : Prop :=
  ∀ s t : State, s.params.legal = true → s.parserInv → step s = .next t → t.parserInv

/-- Every step keeps the correlator's invariant, in every engine (R414; log 19): the FIFO within its capacity (R79), the
chain and the results within theirs (R45, R47), the collector empty when idle, a stopped engine empty and without
pending slots (R320). -/
def Obligations.StepKeepsTheEngineInvariant : Prop :=
  ∀ s t : State, s.params.legal = true → s.engineInv → step s = .next t → t.engineInv

/-- Every step keeps mutual exclusion (R305), in every engine (R414; log 19): for each kind at most one caller is in
Writing or WaitDone, exactly when the slot is not free, and a pending slot holds that caller's reference. -/
def Obligations.StepKeepsMutualExclusion : Prop :=
  ∀ s t : State, s.exclusion → step s = .next t → t.exclusion

end
end

