-- ==== Sys2Proof/Laws/Codec.lean ====
section
/-! SUPPORT. The laws of the codec: the fields of a packed word, and the word packed again from its fields. -/

namespace Sys2Proof

/-- A field as a number (R8). -/
theorem toNat_field (w : Word) (lo n : Nat) : (field w lo n).toNat = w.toNat / 2 ^ lo % 2 ^ n := by
  simp [field, BitVec.extractLsb'_toNat, Nat.shiftRight_eq_div_pow]

/-- Concatenation as numbers (R9). -/
theorem toNat_append {a b : Nat} (x : BitVec a) (y : BitVec b) :
    (x ++ y).toNat = x.toNat * 2 ^ b + y.toNat := by
  rw [BitVec.toNat_append, ← Nat.shiftLeft_add_eq_or_of_lt y.isLt, Nat.shiftLeft_eq]

/-! ## The fields of a packed header (R100) -/

section
variable (t : BitVec 8) (f : BitVec 4) (n : BitVec 7) (s : BitVec 4) (c : BitVec 3) (l : BitVec 13)

@[simp] theorem typeOf_packHeader : typeOf (packHeader t f n l) = t := by
  ext j hj; simp [typeOf, field, packHeader]; grind

@[simp] theorem flagsOf_packHeader : flagsOf (packHeader t f n l) = f := by
  ext j hj; simp [flagsOf, field, packHeader]; grind

@[simp] theorem idOf_packHeader : idOf (packHeader t f n l) = n := by
  ext j hj; simp [idOf, field, packHeader]; grind

@[simp] theorem lengthOf_packHeader : lengthOf (packHeader t f n l) = l := by
  ext j hj; simp [lengthOf, field, packHeader]; grind

@[simp] theorem stackNumOf_packHeader : stackNumOf (packHeader t f (s ++ c) l) = s := by
  ext j hj; simp [stackNumOf, field, packHeader]; grind

@[simp] theorem ctrlIdOf_packHeader : ctrlIdOf (packHeader t f (s ++ c) l) = c := by
  ext j hj; simp [ctrlIdOf, field, packHeader]; grind

@[simp] theorem payloadWords_packHeader : payloadWords (packHeader t f n l) = l.toNat := by
  simp [payloadWords]

@[simp] theorem hasContinue_packHeader : hasContinue (packHeader t f n l) = f.getLsbD 3 := by
  have h : field (packHeader t f n l) 23 1 = BitVec.ofBool (f.getLsbD 3) := by
    ext j hj
    obtain rfl : j = 0 := by omega
    simp [field, packHeader]; grind
  rw [hasContinue, h]
  cases f.getLsbD 3 <;> rfl

end

/-- A word is packed again from its type, flags, stack number, controller and length (R100, R103). -/
theorem packHeader_fields (w : Word) :
    packHeader (typeOf w) (flagsOf w) (stackNumOf w ++ ctrlIdOf w) (lengthOf w) = w := by
  ext j hj; simp [packHeader, typeOf, flagsOf, stackNumOf, ctrlIdOf, lengthOf, field]; grind

/-! ## The fields of a packed SystemEvent header (R107) -/

section
variable (c : BitVec 1) (k : BitVec 3) (t : BitVec 7) (l : BitVec 13)

@[simp] theorem typeOf_packSysEventHeader : typeOf (packSysEventHeader c k t l) = 0xFA#8 := by
  ext j hj; simp [typeOf, field, packSysEventHeader]; grind

@[simp] theorem lengthOf_packSysEventHeader : lengthOf (packSysEventHeader c k t l) = l := by
  ext j hj; simp [lengthOf, field, packSysEventHeader]; grind

@[simp] theorem payloadWords_packSysEventHeader : payloadWords (packSysEventHeader c k t l) = l.toNat := by
  simp [payloadWords]

@[simp] theorem continue_packSysEventHeader : field (packSysEventHeader c k t l) 23 1 = c := by
  ext j hj; simp [field, packSysEventHeader]; grind

@[simp] theorem sysCtrlId_packSysEventHeader : field (packSysEventHeader c k t l) 20 3 = k := by
  ext j hj; simp [field, packSysEventHeader]; grind

@[simp] theorem subtype_packSysEventHeader : field (packSysEventHeader c k t l) 13 7 = t := by
  ext j hj; simp [field, packSysEventHeader]; grind

@[simp] theorem hasContinue_packSysEventHeader :
    hasContinue (packSysEventHeader c k t l) = (c == 1#1) := by
  simp [hasContinue]

end

/-- A word of type 0xFA is packed again from its SystemEvent fields (R107). -/
theorem packSysEventHeader_fields (w : Word) (h : typeOf w = 0xFA#8) :
    packSysEventHeader (field w 23 1) (field w 20 3) (field w 13 7) (lengthOf w) = w := by
  have h2 : typeOf w ++ field w 23 1 ++ field w 20 3 ++ field w 13 7 ++ lengthOf w = w := by
    ext j hj; simp [typeOf, lengthOf, field]; grind
  rw [packSysEventHeader, ← h, h2]

/-! ## ETH header words (R108, R109) -/

section
variable (c : BitVec 4) (n : BitVec 12) (g : BitVec 3) (d : BitVec 13) (t : BitVec 20) (h : BitVec 12)

@[simp] theorem channel_packEth0 : field (packEth0 c n g d) 28 4 = c := by
  ext j hj; simp [field, packEth0]; grind

@[simp] theorem number_packEth0 : field (packEth0 c n g d) 16 12 = n := by
  ext j hj; simp [field, packEth0]; grind

@[simp] theorem ignored_packEth0 : field (packEth0 c n g d) 13 3 = g := by
  ext j hj; simp [field, packEth0]; grind

@[simp] theorem dataWords_packEth0 : field (packEth0 c n g d) 0 13 = d := by
  ext j hj; simp [field, packEth0]; grind

@[simp] theorem timestamp_packEth1 : field (packEth1 t h) 12 20 = t := by
  ext j hj; simp [field, packEth1]; grind

@[simp] theorem pointer_packEth1 : field (packEth1 t h) 0 12 = h := by
  ext j hj; simp [field, packEth1]; grind

end

theorem packEth0_fields (w : Word) :
    packEth0 (field w 28 4) (field w 16 12) (field w 13 3) (field w 0 13) = w := by
  ext j hj; simp [packEth0, field]; grind

theorem packEth1_fields (w : Word) : packEth1 (field w 12 20) (field w 0 12) = w := by
  ext j hj; simp [packEth1, field]; grind

/-! ## Bytes (R71) -/

/-- A word has four bytes, and they give the word back. -/
theorem bytesOfWord_spec (o : ByteOrder) (w : Word) :
    ∃ b0 b1 b2 b3, bytesOfWord o w = [b0, b1, b2, b3] ∧ wordOfBytes o b0 b1 b2 b3 = w := by
  cases o
  · refine ⟨_, _, _, _, rfl, ?_⟩
    ext j hj; simp [wordOfBytes, field]; grind
  · refine ⟨_, _, _, _, rfl, ?_⟩
    ext j hj; simp [wordOfBytes, field]; grind

theorem bytesOfWord_wordOfBytes (o : ByteOrder) (b0 b1 b2 b3 : Byte) :
    bytesOfWord o (wordOfBytes o b0 b1 b2 b3) = [b0, b1, b2, b3] := by
  cases o <;> simp only [bytesOfWord, wordOfBytes, List.cons.injEq, and_true] <;>
    refine ⟨?_, ?_, ?_, ?_⟩ <;> (ext j hj; simp [field]; grind)

/-! ## Frame kinds (R143) -/

/-- What each name says of the type code. -/
theorem frameKind_type (p : Params) (t : BitVec 8) :
    match frameKind p t with
    | .superFrame => t = p.typeSuper
    | .stackFrame => t = 0xF3#8
    | .blockRead => t = 0xF5#8
    | .stackError => t = p.typeStackErr
    | .stackContinuation => t = 0xF9#8
    | .systemEvent => t = 0xFA#8
    | .notRecognized => t ≠ p.typeSuper ∧ t ≠ 0xF3#8 ∧ t ≠ 0xF5#8 ∧ t ≠ p.typeStackErr ∧ t ≠ 0xF9#8 ∧
        t ≠ 0xFA#8 := by
  unfold frameKind
  split_ifs <;> simp_all

/-- The six codes are distinct under legal parameters (R101). -/
theorem legal_types {p : Params} (h : p.legal = true) :
    p.typeSuper ≠ p.typeStackErr ∧
    (p.typeSuper ≠ 0xF3#8 ∧ p.typeSuper ≠ 0xF5#8 ∧ p.typeSuper ≠ 0xF9#8 ∧ p.typeSuper ≠ 0xFA#8) ∧
    p.typeStackErr ≠ 0xF3#8 ∧ p.typeStackErr ≠ 0xF5#8 ∧ p.typeStackErr ≠ 0xF9#8 ∧ p.typeStackErr ≠ 0xFA#8 := by
  simp [Params.legal] at h
  tauto

section
variable {p : Params} (h : p.legal = true)
include h

omit h in
theorem frameKind_super : frameKind p p.typeSuper = .superFrame := by simp [frameKind]

theorem frameKind_stack : frameKind p 0xF3#8 = .stackFrame := by
  have := legal_types h; unfold frameKind; split_ifs <;> simp_all

theorem frameKind_block : frameKind p 0xF5#8 = .blockRead := by
  have := legal_types h; unfold frameKind; split_ifs <;> simp_all

theorem frameKind_stackErr : frameKind p p.typeStackErr = .stackError := by
  have := legal_types h; unfold frameKind; split_ifs <;> simp_all

theorem frameKind_cont : frameKind p 0xF9#8 = .stackContinuation := by
  have := legal_types h; unfold frameKind; split_ifs <;> simp_all

theorem frameKind_sysEvent : frameKind p 0xFA#8 = .systemEvent := by
  have := legal_types h; unfold frameKind; split_ifs <;> simp_all

end

/-- A frame word that decodes is the encoding of what it decodes to. -/
theorem encode_decodeFrameWord (p : Params) (w : Word) (i : Instr) (h : decodeFrameWord p w = .ok i) :
    encode p i = some w ∧ positionOf i = .frame ∧ wellFormed p i = true := by
  have hk := frameKind_type p (typeOf w)
  have hw := packHeader_fields w
  unfold decodeFrameWord at h
  split at h <;> rename_i hkind <;> rw [hkind] at hk <;> cases h <;>
    refine ⟨?_, rfl, rfl⟩ <;> simp only [encode, ← hk, hw]
  rw [packSysEventHeader_fields w hk]

/-- A header word that decodes at a position is the encoding of what it decodes to. -/
theorem encode_decodeAt (p : Params) (pos : Position) (w : Word) (i : Instr) (h : decodeAt p pos w = .ok i) :
    encode p i = some w ∧ positionOf i = pos ∧ wellFormed p i = true := by
  cases pos
  · exact encode_decodeFrameWord p w i h
  · cases h; exact ⟨by rw [encode, packEth0_fields], rfl, rfl⟩
  · cases h; exact ⟨by rw [encode, packEth1_fields], rfl, rfl⟩

end Sys2Proof
end

