-- ==== Sys2Proof/Laws/Sparse.lean ====
section
/-! SUPPORT. The laws of the sparse tables and of the scratch memory: read after write, and every operation
keeps the canonical form (R73, R74; log 13, 14). -/

namespace Sys2Proof.Machine

section
variable {α : Type}

@[simp] theorem Sparse.find?_nil (k : Nat) : Sparse.find? ([] : Sparse α) k = none := rfl

theorem Sparse.find?_cons (e : Nat × α) (m : Sparse α) (k : Nat) :
    Sparse.find? (e :: m) k = if e.1 = k then some e.2 else Sparse.find? m k := rfl

/-- A key outside the listed ones has no listed value. -/
theorem Sparse.find?_eq_none_of_not_mem (m : Sparse α) (k : Nat) (h : ∀ e ∈ m, e.1 ≠ k) :
    Sparse.find? m k = none := by
  induction m with
  | nil => rfl
  | cons e m ih =>
    rw [Sparse.find?_cons, if_neg (h e (by simp)), ih (fun e' he' => h e' (by simp [he']))]

theorem Sparse.find?_put_self (m : Sparse α) (k : Nat) (v : α) :
    Sparse.find? (Sparse.put m k v) k = some v := by
  induction m with
  | nil => simp [Sparse.put, Sparse.find?_cons]
  | cons e m ih =>
    obtain ⟨j, u⟩ := e
    simp only [Sparse.put]
    split
    · simp [Sparse.find?_cons]
    · split
      · simp [Sparse.find?_cons]
      · have : j ≠ k := by omega
        simpa [Sparse.find?_cons, this] using ih

theorem Sparse.find?_put_of_ne (m : Sparse α) (k a : Nat) (v : α) (h : a ≠ k) :
    Sparse.find? (Sparse.put m k v) a = Sparse.find? m a := by
  induction m with
  | nil => simp [Sparse.put, Sparse.find?_cons, h.symm]
  | cons e m ih =>
    obtain ⟨j, u⟩ := e
    simp only [Sparse.put]
    split
    · simp [Sparse.find?_cons, h.symm]
    · split
      · rename_i hkj; subst hkj; simp [Sparse.find?_cons, h.symm]
      · simp [Sparse.find?_cons, ih]

theorem Sparse.find?_erase_self (m : Sparse α) (k : Nat) :
    Sparse.find? (Sparse.erase m k) k = none := by
  apply Sparse.find?_eq_none_of_not_mem
  intro e he
  simpa using (List.mem_filter.1 he).2

theorem Sparse.find?_erase_of_ne (m : Sparse α) (k a : Nat) (h : a ≠ k) :
    Sparse.find? (Sparse.erase m k) a = Sparse.find? m a := by
  induction m with
  | nil => rfl
  | cons e m ih =>
    unfold Sparse.erase at ih ⊢
    by_cases hk : e.1 = k
    · rw [List.filter_cons_of_neg (by simpa using hk), ih, Sparse.find?_cons, if_neg (by omega)]
    · rw [List.filter_cons_of_pos (by simpa using hk), Sparse.find?_cons, Sparse.find?_cons, ih]

/-! ### The keys of a table after an operation -/

theorem Sparse.mem_put (m : Sparse α) (k : Nat) (v : α) (e : Nat × α) (h : e ∈ Sparse.put m k v) :
    e = (k, v) ∨ e ∈ m := by
  induction m with
  | nil => simpa [Sparse.put] using h
  | cons f m ih =>
    obtain ⟨j, u⟩ := f
    simp only [Sparse.put] at h
    split at h
    · simpa using h
    · split at h
      · rcases List.mem_cons.1 h with h | h
        · exact .inl h
        · exact .inr (List.mem_cons_of_mem _ h)
      · rcases List.mem_cons.1 h with h | h
        · exact .inr (by simp [h])
        · rcases ih h with h | h
          · exact .inl h
          · exact .inr (List.mem_cons_of_mem _ h)

theorem Sparse.rising_put (m : Sparse α) (k : Nat) (v : α) (h : Sparse.rising m) :
    Sparse.rising (Sparse.put m k v) := by
  induction m with
  | nil => simp [Sparse.rising, Sparse.put]
  | cons f m ih =>
    obtain ⟨j, u⟩ := f
    simp only [Sparse.rising, List.map_cons, List.pairwise_cons] at h ih ⊢
    simp only [Sparse.put]
    split
    · rename_i hkj
      simp only [List.map_cons, List.pairwise_cons]
      refine ⟨fun a ha => ?_, h.1, h.2⟩
      rcases List.mem_cons.1 ha with rfl | ha
      · exact hkj
      · exact Nat.lt_trans hkj (h.1 a ha)
    · split
      · rename_i hkj
        subst hkj
        simpa using h
      · rename_i h1 h2
        simp only [List.map_cons, List.pairwise_cons]
        refine ⟨fun a ha => ?_, ih h.2⟩
        obtain ⟨e, he, rfl⟩ := List.mem_map.1 ha
        rcases Sparse.mem_put m k v e he with rfl | he
        · show j < k
          omega
        · exact h.1 _ (List.mem_map.2 ⟨e, he, rfl⟩)

theorem Sparse.rising_erase (m : Sparse α) (k : Nat) (h : Sparse.rising m) :
    Sparse.rising (Sparse.erase m k) := by
  unfold Sparse.rising Sparse.erase at *
  exact List.Pairwise.sublist (List.Sublist.map _ List.filter_sublist) h

/-- A key above all listed ones is listed last. -/
theorem Sparse.put_append_last (m : Sparse α) (k : Nat) (v : α) (h : ∀ e ∈ m, e.1 < k) :
    Sparse.put m k v = m ++ [(k, v)] := by
  induction m with
  | nil => rfl
  | cons e m ih =>
    have he := h e (by simp)
    have hm := ih (fun e' he' => h e' (List.mem_cons_of_mem _ he'))
    simp only [Sparse.put, hm]
    rw [if_neg (by omega), if_neg (by omega)]
    rfl

end

section
variable {α : Type} [DecidableEq α]

theorem Sparse.get_set_self (d : α) (m : Sparse α) (k : Nat) (v : α) :
    Sparse.get d (Sparse.set d m k v) k = v := by
  unfold Sparse.get Sparse.set
  split
  · rename_i h; simp [Sparse.find?_erase_self, h]
  · simp [Sparse.find?_put_self]

theorem Sparse.get_set_of_ne (d : α) (m : Sparse α) (k a : Nat) (v : α) (h : a ≠ k) :
    Sparse.get d (Sparse.set d m k v) a = Sparse.get d m a := by
  unfold Sparse.get Sparse.set
  split
  · rw [Sparse.find?_erase_of_ne m k a h]
  · rw [Sparse.find?_put_of_ne m k a v h]

/-- Writing a table keeps its canonical form. -/
theorem Sparse.wf_set (d : α) (m : Sparse α) (k : Nat) (v : α) (h : Sparse.wf d m) :
    Sparse.wf d (Sparse.set d m k v) := by
  unfold Sparse.set
  split
  · exact ⟨Sparse.rising_erase m k h.1, fun e he => h.2 e (List.mem_filter.1 he).1⟩
  · rename_i hv
    refine ⟨Sparse.rising_put m k v h.1, fun e he => ?_⟩
    rcases Sparse.mem_put m k v e he with rfl | he
    · exact hv
    · exact h.2 e he

/-- Every key listed after a write is the written one or was listed before. -/
theorem Sparse.mem_set (d : α) (m : Sparse α) (k : Nat) (v : α) (e : Nat × α)
    (h : e ∈ Sparse.set d m k v) : e = (k, v) ∨ e ∈ m := by
  unfold Sparse.set at h
  split at h
  · exact .inr (List.mem_filter.1 h).1
  · exact Sparse.mem_put m k v e h

theorem Sparse.wf_nil (d : α) : Sparse.wf d ([] : Sparse α) := ⟨List.Pairwise.nil, by simp⟩

end

theorem Sparse.get_nil {α : Type} (d : α) (k : Nat) : Sparse.get d ([] : Sparse α) k = d := rfl

/-! ### The scratch memory -/

theorem Memory.readWord_write_self (m : Sparse Word) (a : Nat) (w : Word) :
    Memory.readWord (Memory.write m a w) a = w := by
  simp [Memory.readWord, Memory.write, Sparse.find?_put_self]

theorem Memory.readWord_write_of_ne (m : Sparse Word) (a b : Nat) (w : Word) (h : b ≠ a) :
    Memory.readWord (Memory.write m a w) b = Memory.readWord m b := by
  simp [Memory.readWord, Memory.write, Sparse.find?_put_of_ne m a b w h]

/-- A write keeps the canonical form of the scratch memory. -/
theorem Memory.wf_write (m : Sparse Word) (a : Nat) (w : Word) (h : Memory.wf m) :
    Memory.wf (Memory.write m a w) :=
  Sparse.rising_put m a w h

/-- The scratch memory of the reset state, and of a cleared event, is in canonical form. -/
theorem Memory.wf_empty : Memory.wf [] := List.Pairwise.nil

theorem Memory.wf_reset : Memory.wf State.reset.parser.scratch := List.Pairwise.nil

theorem Memory.length_read (m : Sparse Word) (a n : Nat) : (Memory.read m a n).length = n := by
  induction n generalizing a with
  | zero => rfl
  | succ n ih => simp [Memory.read, ih]

theorem Memory.getElem?_read (m : Sparse Word) (a n i : Nat) (h : i < n) :
    (Memory.read m a n)[i]? = some (Memory.readWord m (a + i)) := by
  induction n generalizing a i with
  | zero => omega
  | succ n ih =>
    cases i with
    | zero => simp [Memory.read]
    | succ i => simp only [Memory.read, List.getElem?_cons_succ]; rw [ih (a + 1) i (by omega)]; congr 2; omega

/-- A read of `n + k` words is the read of the first `n` and then of the other `k`. -/
theorem Memory.read_add (m : Sparse Word) (a n k : Nat) :
    Memory.read m a (n + k) = Memory.read m a n ++ Memory.read m (a + n) k := by
  induction n generalizing a with
  | zero => simp [Memory.read]
  | succ n ih =>
    have h : n + 1 + k = (n + k) + 1 := by omega
    rw [h]
    have h2 : a + 1 + n = a + (n + 1) := by omega
    simp only [Memory.read, ih, List.cons_append, h2]

/-- A write outside the words read does not change the read. -/
theorem Memory.read_write_of_le (m : Sparse Word) (a n b : Nat) (w : Word) (h : a + n ≤ b) :
    Memory.read (Memory.write m b w) a n = Memory.read m a n := by
  induction n generalizing a with
  | zero => rfl
  | succ n ih =>
    simp only [Memory.read]
    rw [Memory.readWord_write_of_ne m b a w (by omega), ih (a + 1) (by omega)]

end Sys2Proof.Machine
end

