-- ==== Sys2Proof/Laws/State.lean ====
section
/-! SUPPORT. The fields of the state's records after each named update, so that no proof unfolds a record
update. -/

namespace Sys2Proof.Machine

/-! ## The whole state -/

@[simp] theorem State.withParser_params (P : Parser) (s : State) : (s.withParser P).params = s.params := rfl
@[simp] theorem State.withParser_parser (P : Parser) (s : State) : (s.withParser P).parser = P := rfl
@[simp] theorem State.withParser_otherSessions (P : Parser) (s : State) : (s.withParser P).otherSessions = s.otherSessions := rfl
@[simp] theorem State.withParser_engine (P : Parser) (s : State) : (s.withParser P).engine = s.engine := rfl
@[simp] theorem State.withParser_callers (P : Parser) (s : State) : (s.withParser P).callers = s.callers := rfl
@[simp] theorem State.withParser_otherEngines (P : Parser) (s : State) : (s.withParser P).otherEngines = s.otherEngines := rfl
@[simp] theorem State.withParser_written (P : Parser) (s : State) : (s.withParser P).written = s.written := rfl
@[simp] theorem State.withParser_result (P : Parser) (s : State) : (s.withParser P).result = s.result := rfl
@[simp] theorem State.withParser_schedule (P : Parser) (s : State) : (s.withParser P).schedule = s.schedule := rfl

@[simp] theorem State.withEngine_params (T : Engine) (s : State) : (s.withEngine T).params = s.params := rfl
@[simp] theorem State.withEngine_parser (T : Engine) (s : State) : (s.withEngine T).parser = s.parser := rfl
@[simp] theorem State.withEngine_otherSessions (T : Engine) (s : State) : (s.withEngine T).otherSessions = s.otherSessions := rfl
@[simp] theorem State.withEngine_engine (T : Engine) (s : State) : (s.withEngine T).engine = T := rfl
@[simp] theorem State.withEngine_callers (T : Engine) (s : State) : (s.withEngine T).callers = s.callers := rfl
@[simp] theorem State.withEngine_otherEngines (T : Engine) (s : State) : (s.withEngine T).otherEngines = s.otherEngines := rfl
@[simp] theorem State.withEngine_written (T : Engine) (s : State) : (s.withEngine T).written = s.written := rfl
@[simp] theorem State.withEngine_result (T : Engine) (s : State) : (s.withEngine T).result = s.result := rfl
@[simp] theorem State.withEngine_schedule (T : Engine) (s : State) : (s.withEngine T).schedule = s.schedule := rfl

@[simp] theorem State.withResult_params (r : OpResult) (s : State) : (s.withResult r).params = s.params := rfl
@[simp] theorem State.withResult_parser (r : OpResult) (s : State) : (s.withResult r).parser = s.parser := rfl
@[simp] theorem State.withResult_otherSessions (r : OpResult) (s : State) : (s.withResult r).otherSessions = s.otherSessions := rfl
@[simp] theorem State.withResult_engine (r : OpResult) (s : State) : (s.withResult r).engine = s.engine := rfl
@[simp] theorem State.withResult_callers (r : OpResult) (s : State) : (s.withResult r).callers = s.callers := rfl
@[simp] theorem State.withResult_otherEngines (r : OpResult) (s : State) : (s.withResult r).otherEngines = s.otherEngines := rfl
@[simp] theorem State.withResult_written (r : OpResult) (s : State) : (s.withResult r).written = s.written := rfl
@[simp] theorem State.withResult_result (r : OpResult) (s : State) : (s.withResult r).result = r := rfl
@[simp] theorem State.withResult_schedule (r : OpResult) (s : State) : (s.withResult r).schedule = s.schedule := rfl

@[simp] theorem State.withSchedule_params (es : List Event) (s : State) : (s.withSchedule es).params = s.params := rfl
@[simp] theorem State.withSchedule_parser (es : List Event) (s : State) : (s.withSchedule es).parser = s.parser := rfl
@[simp] theorem State.withSchedule_otherSessions (es : List Event) (s : State) : (s.withSchedule es).otherSessions = s.otherSessions := rfl
@[simp] theorem State.withSchedule_engine (es : List Event) (s : State) : (s.withSchedule es).engine = s.engine := rfl
@[simp] theorem State.withSchedule_callers (es : List Event) (s : State) : (s.withSchedule es).callers = s.callers := rfl
@[simp] theorem State.withSchedule_otherEngines (es : List Event) (s : State) : (s.withSchedule es).otherEngines = s.otherEngines := rfl
@[simp] theorem State.withSchedule_written (es : List Event) (s : State) : (s.withSchedule es).written = s.written := rfl
@[simp] theorem State.withSchedule_result (es : List Event) (s : State) : (s.withSchedule es).result = s.result := rfl
@[simp] theorem State.withSchedule_schedule (es : List Event) (s : State) : (s.withSchedule es).schedule = es := rfl

@[simp] theorem State.setCallerStep_params (c : Nat) (k : CallerStep) (s : State) : (s.setCallerStep c k).params = s.params := rfl
@[simp] theorem State.setCallerStep_parser (c : Nat) (k : CallerStep) (s : State) : (s.setCallerStep c k).parser = s.parser := rfl
@[simp] theorem State.setCallerStep_otherSessions (c : Nat) (k : CallerStep) (s : State) : (s.setCallerStep c k).otherSessions = s.otherSessions := rfl
@[simp] theorem State.setCallerStep_engine (c : Nat) (k : CallerStep) (s : State) : (s.setCallerStep c k).engine = s.engine := rfl
@[simp] theorem State.setCallerStep_callers (c : Nat) (k : CallerStep) (s : State) : (s.setCallerStep c k).callers = s.callers.modify c (fun a => { a with step := k }) := rfl
@[simp] theorem State.setCallerStep_otherEngines (c : Nat) (k : CallerStep) (s : State) : (s.setCallerStep c k).otherEngines = s.otherEngines := rfl
@[simp] theorem State.setCallerStep_written (c : Nat) (k : CallerStep) (s : State) : (s.setCallerStep c k).written = s.written := rfl
@[simp] theorem State.setCallerStep_result (c : Nat) (k : CallerStep) (s : State) : (s.setCallerStep c k).result = s.result := rfl
@[simp] theorem State.setCallerStep_schedule (c : Nat) (k : CallerStep) (s : State) : (s.setCallerStep c k).schedule = s.schedule := rfl

@[simp] theorem State.recordWrite_params (ws : List Word) (ok : Bool) (s : State) : (s.recordWrite ws ok).params = s.params := rfl
@[simp] theorem State.recordWrite_parser (ws : List Word) (ok : Bool) (s : State) : (s.recordWrite ws ok).parser = s.parser := rfl
@[simp] theorem State.recordWrite_otherSessions (ws : List Word) (ok : Bool) (s : State) : (s.recordWrite ws ok).otherSessions = s.otherSessions := rfl
@[simp] theorem State.recordWrite_engine (ws : List Word) (ok : Bool) (s : State) : (s.recordWrite ws ok).engine = s.engine := rfl
@[simp] theorem State.recordWrite_callers (ws : List Word) (ok : Bool) (s : State) : (s.recordWrite ws ok).callers = s.callers := rfl
@[simp] theorem State.recordWrite_otherEngines (ws : List Word) (ok : Bool) (s : State) : (s.recordWrite ws ok).otherEngines = s.otherEngines := rfl
@[simp] theorem State.recordWrite_written (ws : List Word) (ok : Bool) (s : State) : (s.recordWrite ws ok).written = s.written ++ [⟨ws, ok⟩] := rfl
@[simp] theorem State.recordWrite_result (ws : List Word) (ok : Bool) (s : State) : (s.recordWrite ws ok).result = s.result := rfl
@[simp] theorem State.recordWrite_schedule (ws : List Word) (ok : Bool) (s : State) : (s.recordWrite ws ok).schedule = s.schedule := rfl

@[simp] theorem State.returnCall_params (P : Parser) (s : State) : (s.returnCall P).params = s.params := rfl
@[simp] theorem State.returnCall_parser (P : Parser) (s : State) : (s.returnCall P).parser = P.endCall := rfl
@[simp] theorem State.returnCall_otherSessions (P : Parser) (s : State) : (s.returnCall P).otherSessions = s.otherSessions := rfl
@[simp] theorem State.returnCall_engine (P : Parser) (s : State) : (s.returnCall P).engine = s.engine := rfl
@[simp] theorem State.returnCall_callers (P : Parser) (s : State) : (s.returnCall P).callers = s.callers := rfl
@[simp] theorem State.returnCall_otherEngines (P : Parser) (s : State) : (s.returnCall P).otherEngines = s.otherEngines := rfl
@[simp] theorem State.returnCall_written (P : Parser) (s : State) : (s.returnCall P).written = s.written := rfl
@[simp] theorem State.returnCall_result (P : Parser) (s : State) : (s.returnCall P).result = .outcome P.callOutcome := rfl
@[simp] theorem State.returnCall_schedule (P : Parser) (s : State) : (s.returnCall P).schedule = s.schedule := rfl

@[simp] theorem State.afterWord_params (r : Parser × Bool) (s : State) : (s.afterWord r).params = s.params := by
  unfold State.afterWord; split <;> rfl
@[simp] theorem State.afterWord_parser (r : Parser × Bool) (s : State) : (s.afterWord r).parser = if r.2 then r.1.endCall else r.1 := by
  unfold State.afterWord; split <;> rfl
@[simp] theorem State.afterWord_otherSessions (r : Parser × Bool) (s : State) : (s.afterWord r).otherSessions = s.otherSessions := by
  unfold State.afterWord; split <;> rfl
@[simp] theorem State.afterWord_engine (r : Parser × Bool) (s : State) : (s.afterWord r).engine = s.engine := by
  unfold State.afterWord; split <;> rfl
@[simp] theorem State.afterWord_callers (r : Parser × Bool) (s : State) : (s.afterWord r).callers = s.callers := by
  unfold State.afterWord; split <;> rfl
@[simp] theorem State.afterWord_otherEngines (r : Parser × Bool) (s : State) : (s.afterWord r).otherEngines = s.otherEngines := by
  unfold State.afterWord; split <;> rfl
@[simp] theorem State.afterWord_written (r : Parser × Bool) (s : State) : (s.afterWord r).written = s.written := by
  unfold State.afterWord; split <;> rfl
@[simp] theorem State.afterWord_result (r : Parser × Bool) (s : State) : (s.afterWord r).result = if r.2 then .outcome r.1.callOutcome else s.result := by
  unfold State.afterWord; split <;> rfl
@[simp] theorem State.afterWord_schedule (r : Parser × Bool) (s : State) : (s.afterWord r).schedule = s.schedule := by
  unfold State.afterWord; split <;> rfl

@[simp] theorem State.withCorrelator_params (c : Correlator) (s : State) : (s.withCorrelator c).params = s.params := rfl
@[simp] theorem State.withCorrelator_parser (c : Correlator) (s : State) : (s.withCorrelator c).parser = s.parser := rfl
@[simp] theorem State.withCorrelator_otherSessions (c : Correlator) (s : State) : (s.withCorrelator c).otherSessions = s.otherSessions := rfl
@[simp] theorem State.withCorrelator_engine (c : Correlator) (s : State) : (s.withCorrelator c).engine = c.engine := rfl
@[simp] theorem State.withCorrelator_callers (c : Correlator) (s : State) : (s.withCorrelator c).callers = c.callers := rfl
@[simp] theorem State.withCorrelator_otherEngines (c : Correlator) (s : State) : (s.withCorrelator c).otherEngines = s.otherEngines := rfl
@[simp] theorem State.withCorrelator_written (c : Correlator) (s : State) : (s.withCorrelator c).written = s.written := rfl
@[simp] theorem State.withCorrelator_result (c : Correlator) (s : State) : (s.withCorrelator c).result = s.result := rfl
@[simp] theorem State.withCorrelator_schedule (c : Correlator) (s : State) : (s.withCorrelator c).schedule = s.schedule := rfl

@[simp] theorem State.turnToEngine_params (k : Nat) (s : State) : (s.turnToEngine k).params = s.params := by
  unfold State.turnToEngine; split <;> rfl
@[simp] theorem State.turnToEngine_parser (k : Nat) (s : State) : (s.turnToEngine k).parser = s.parser := by
  unfold State.turnToEngine; split <;> rfl
@[simp] theorem State.turnToEngine_otherSessions (k : Nat) (s : State) : (s.turnToEngine k).otherSessions = s.otherSessions := by
  unfold State.turnToEngine; split <;> rfl
@[simp] theorem State.turnToEngine_written (k : Nat) (s : State) : (s.turnToEngine k).written = s.written := by
  unfold State.turnToEngine; split <;> rfl
@[simp] theorem State.turnToEngine_result (k : Nat) (s : State) : (s.turnToEngine k).result = s.result := by
  unfold State.turnToEngine; split <;> rfl
@[simp] theorem State.turnToEngine_schedule (k : Nat) (s : State) : (s.turnToEngine k).schedule = s.schedule := by
  unfold State.turnToEngine; split <;> rfl

@[simp] theorem State.turnToSession_params (k : Nat) (s : State) : (s.turnToSession k).params = s.params := by
  unfold State.turnToSession; split <;> rfl
@[simp] theorem State.turnToSession_engine (k : Nat) (s : State) : (s.turnToSession k).engine = s.engine := by
  unfold State.turnToSession; split <;> rfl
@[simp] theorem State.turnToSession_callers (k : Nat) (s : State) : (s.turnToSession k).callers = s.callers := by
  unfold State.turnToSession; split <;> rfl
@[simp] theorem State.turnToSession_otherEngines (k : Nat) (s : State) : (s.turnToSession k).otherEngines = s.otherEngines := by
  unfold State.turnToSession; split <;> rfl
@[simp] theorem State.turnToSession_written (k : Nat) (s : State) : (s.turnToSession k).written = s.written := by
  unfold State.turnToSession; split <;> rfl
@[simp] theorem State.turnToSession_result (k : Nat) (s : State) : (s.turnToSession k).result = s.result := by
  unfold State.turnToSession; split <;> rfl
@[simp] theorem State.turnToSession_schedule (k : Nat) (s : State) : (s.turnToSession k).schedule = s.schedule := by
  unfold State.turnToSession; split <;> rfl

@[simp] theorem State.submit_params (q : Request) (ws : List Word) (s : State) : (s.submit q ws).params = s.params := rfl
@[simp] theorem State.submit_parser (q : Request) (ws : List Word) (s : State) : (s.submit q ws).parser = s.parser := rfl
@[simp] theorem State.submit_otherSessions (q : Request) (ws : List Word) (s : State) : (s.submit q ws).otherSessions = s.otherSessions := rfl
@[simp] theorem State.submit_engine (q : Request) (ws : List Word) (s : State) : (s.submit q ws).engine = s.engine := rfl
@[simp] theorem State.submit_callers (q : Request) (ws : List Word) (s : State) : (s.submit q ws).callers = s.callers ++ [⟨q, ws, .start⟩] := rfl
@[simp] theorem State.submit_otherEngines (q : Request) (ws : List Word) (s : State) : (s.submit q ws).otherEngines = s.otherEngines := rfl
@[simp] theorem State.submit_written (q : Request) (ws : List Word) (s : State) : (s.submit q ws).written = s.written := rfl
@[simp] theorem State.submit_result (q : Request) (ws : List Word) (s : State) : (s.submit q ws).result = .caller s.callers.length := rfl
@[simp] theorem State.submit_schedule (q : Request) (ws : List Word) (s : State) : (s.submit q ws).schedule = s.schedule := rfl

/-! ## The parser -/

@[simp] theorem Parser.setSpan_session (m : Nat) (v : Span) (P : Parser) : (P.setSpan m v).session = P.session := rfl
@[simp] theorem Parser.setSpan_rs (m : Nat) (v : Span) (P : Parser) : (P.setSpan m v).rs = P.rs := rfl
@[simp] theorem Parser.setSpan_eventIndex (m : Nat) (v : Span) (P : Parser) : (P.setSpan m v).eventIndex = P.eventIndex := rfl
@[simp] theorem Parser.setSpan_moduleIndex (m : Nat) (v : Span) (P : Parser) : (P.setSpan m v).moduleIndex = P.moduleIndex := rfl
@[simp] theorem Parser.setSpan_phase (m : Nat) (v : Span) (P : Parser) : (P.setSpan m v).phase = P.phase := rfl
@[simp] theorem Parser.setSpan_stackF (m : Nat) (v : Span) (P : Parser) : (P.setSpan m v).stackF = P.stackF := rfl
@[simp] theorem Parser.setSpan_blockF (m : Nat) (v : Span) (P : Parser) : (P.setSpan m v).blockF = P.blockF := rfl
@[simp] theorem Parser.setSpan_spans (m : Nat) (v : Span) (P : Parser) : (P.setSpan m v).spans = Sparse.set Span.zero P.spans m v := rfl
@[simp] theorem Parser.setSpan_scratch (m : Nat) (v : Span) (P : Parser) : (P.setSpan m v).scratch = P.scratch := rfl
@[simp] theorem Parser.setSpan_used (m : Nat) (v : Span) (P : Parser) : (P.setSpan m v).used = P.used := rfl
@[simp] theorem Parser.setSpan_lastBufferNumber (m : Nat) (v : Span) (P : Parser) : (P.setSpan m v).lastBufferNumber = P.lastBufferNumber := rfl
@[simp] theorem Parser.setSpan_bufSeqValid (m : Nat) (v : Span) (P : Parser) : (P.setSpan m v).bufSeqValid = P.bufSeqValid := rfl
@[simp] theorem Parser.setSpan_lastPacketNumber (m : Nat) (v : Span) (P : Parser) : (P.setSpan m v).lastPacketNumber = P.lastPacketNumber := rfl
@[simp] theorem Parser.setSpan_pktSeqValid (m : Nat) (v : Span) (P : Parser) : (P.setSpan m v).pktSeqValid = P.pktSeqValid := rfl
@[simp] theorem Parser.setSpan_counters (m : Nat) (v : Span) (P : Parser) : (P.setSpan m v).counters = P.counters := rfl
@[simp] theorem Parser.setSpan_call (m : Nat) (v : Span) (P : Parser) : (P.setSpan m v).call = P.call := rfl
@[simp] theorem Parser.setSpan_emitted (m : Nat) (v : Span) (P : Parser) : (P.setSpan m v).emitted = P.emitted := rfl

@[simp] theorem Parser.bumpResult_session (o : ParseOutcome) (P : Parser) : (P.bumpResult o).session = P.session := rfl
@[simp] theorem Parser.bumpResult_rs (o : ParseOutcome) (P : Parser) : (P.bumpResult o).rs = P.rs := rfl
@[simp] theorem Parser.bumpResult_eventIndex (o : ParseOutcome) (P : Parser) : (P.bumpResult o).eventIndex = P.eventIndex := rfl
@[simp] theorem Parser.bumpResult_moduleIndex (o : ParseOutcome) (P : Parser) : (P.bumpResult o).moduleIndex = P.moduleIndex := rfl
@[simp] theorem Parser.bumpResult_phase (o : ParseOutcome) (P : Parser) : (P.bumpResult o).phase = P.phase := rfl
@[simp] theorem Parser.bumpResult_stackF (o : ParseOutcome) (P : Parser) : (P.bumpResult o).stackF = P.stackF := rfl
@[simp] theorem Parser.bumpResult_blockF (o : ParseOutcome) (P : Parser) : (P.bumpResult o).blockF = P.blockF := rfl
@[simp] theorem Parser.bumpResult_spans (o : ParseOutcome) (P : Parser) : (P.bumpResult o).spans = P.spans := rfl
@[simp] theorem Parser.bumpResult_scratch (o : ParseOutcome) (P : Parser) : (P.bumpResult o).scratch = P.scratch := rfl
@[simp] theorem Parser.bumpResult_used (o : ParseOutcome) (P : Parser) : (P.bumpResult o).used = P.used := rfl
@[simp] theorem Parser.bumpResult_lastBufferNumber (o : ParseOutcome) (P : Parser) : (P.bumpResult o).lastBufferNumber = P.lastBufferNumber := rfl
@[simp] theorem Parser.bumpResult_bufSeqValid (o : ParseOutcome) (P : Parser) : (P.bumpResult o).bufSeqValid = P.bufSeqValid := rfl
@[simp] theorem Parser.bumpResult_lastPacketNumber (o : ParseOutcome) (P : Parser) : (P.bumpResult o).lastPacketNumber = P.lastPacketNumber := rfl
@[simp] theorem Parser.bumpResult_pktSeqValid (o : ParseOutcome) (P : Parser) : (P.bumpResult o).pktSeqValid = P.pktSeqValid := rfl
@[simp] theorem Parser.bumpResult_counters (o : ParseOutcome) (P : Parser) : (P.bumpResult o).counters = { P.counters with parseResults := P.counters.parseResults.bump o } := rfl
@[simp] theorem Parser.bumpResult_call (o : ParseOutcome) (P : Parser) : (P.bumpResult o).call = P.call := rfl
@[simp] theorem Parser.bumpResult_emitted (o : ParseOutcome) (P : Parser) : (P.bumpResult o).emitted = P.emitted := rfl

@[simp] theorem Parser.addUnused_session (n : Nat) (P : Parser) : (P.addUnused n).session = P.session := rfl
@[simp] theorem Parser.addUnused_rs (n : Nat) (P : Parser) : (P.addUnused n).rs = P.rs := rfl
@[simp] theorem Parser.addUnused_eventIndex (n : Nat) (P : Parser) : (P.addUnused n).eventIndex = P.eventIndex := rfl
@[simp] theorem Parser.addUnused_moduleIndex (n : Nat) (P : Parser) : (P.addUnused n).moduleIndex = P.moduleIndex := rfl
@[simp] theorem Parser.addUnused_phase (n : Nat) (P : Parser) : (P.addUnused n).phase = P.phase := rfl
@[simp] theorem Parser.addUnused_stackF (n : Nat) (P : Parser) : (P.addUnused n).stackF = P.stackF := rfl
@[simp] theorem Parser.addUnused_blockF (n : Nat) (P : Parser) : (P.addUnused n).blockF = P.blockF := rfl
@[simp] theorem Parser.addUnused_spans (n : Nat) (P : Parser) : (P.addUnused n).spans = P.spans := rfl
@[simp] theorem Parser.addUnused_scratch (n : Nat) (P : Parser) : (P.addUnused n).scratch = P.scratch := rfl
@[simp] theorem Parser.addUnused_used (n : Nat) (P : Parser) : (P.addUnused n).used = P.used := rfl
@[simp] theorem Parser.addUnused_lastBufferNumber (n : Nat) (P : Parser) : (P.addUnused n).lastBufferNumber = P.lastBufferNumber := rfl
@[simp] theorem Parser.addUnused_bufSeqValid (n : Nat) (P : Parser) : (P.addUnused n).bufSeqValid = P.bufSeqValid := rfl
@[simp] theorem Parser.addUnused_lastPacketNumber (n : Nat) (P : Parser) : (P.addUnused n).lastPacketNumber = P.lastPacketNumber := rfl
@[simp] theorem Parser.addUnused_pktSeqValid (n : Nat) (P : Parser) : (P.addUnused n).pktSeqValid = P.pktSeqValid := rfl
@[simp] theorem Parser.addUnused_counters (n : Nat) (P : Parser) : (P.addUnused n).counters = { P.counters with unusedBytes := P.counters.unusedBytes + bytesOfWords n } := rfl
@[simp] theorem Parser.addUnused_call (n : Nat) (P : Parser) : (P.addUnused n).call = P.call := rfl
@[simp] theorem Parser.addUnused_emitted (n : Nat) (P : Parser) : (P.addUnused n).emitted = P.emitted := rfl

@[simp] theorem Parser.addProcessed_session (n : Nat) (P : Parser) : (P.addProcessed n).session = P.session := rfl
@[simp] theorem Parser.addProcessed_rs (n : Nat) (P : Parser) : (P.addProcessed n).rs = P.rs := rfl
@[simp] theorem Parser.addProcessed_eventIndex (n : Nat) (P : Parser) : (P.addProcessed n).eventIndex = P.eventIndex := rfl
@[simp] theorem Parser.addProcessed_moduleIndex (n : Nat) (P : Parser) : (P.addProcessed n).moduleIndex = P.moduleIndex := rfl
@[simp] theorem Parser.addProcessed_phase (n : Nat) (P : Parser) : (P.addProcessed n).phase = P.phase := rfl
@[simp] theorem Parser.addProcessed_stackF (n : Nat) (P : Parser) : (P.addProcessed n).stackF = P.stackF := rfl
@[simp] theorem Parser.addProcessed_blockF (n : Nat) (P : Parser) : (P.addProcessed n).blockF = P.blockF := rfl
@[simp] theorem Parser.addProcessed_spans (n : Nat) (P : Parser) : (P.addProcessed n).spans = P.spans := rfl
@[simp] theorem Parser.addProcessed_scratch (n : Nat) (P : Parser) : (P.addProcessed n).scratch = P.scratch := rfl
@[simp] theorem Parser.addProcessed_used (n : Nat) (P : Parser) : (P.addProcessed n).used = P.used := rfl
@[simp] theorem Parser.addProcessed_lastBufferNumber (n : Nat) (P : Parser) : (P.addProcessed n).lastBufferNumber = P.lastBufferNumber := rfl
@[simp] theorem Parser.addProcessed_bufSeqValid (n : Nat) (P : Parser) : (P.addProcessed n).bufSeqValid = P.bufSeqValid := rfl
@[simp] theorem Parser.addProcessed_lastPacketNumber (n : Nat) (P : Parser) : (P.addProcessed n).lastPacketNumber = P.lastPacketNumber := rfl
@[simp] theorem Parser.addProcessed_pktSeqValid (n : Nat) (P : Parser) : (P.addProcessed n).pktSeqValid = P.pktSeqValid := rfl
@[simp] theorem Parser.addProcessed_counters (n : Nat) (P : Parser) : (P.addProcessed n).counters = { P.counters with bytesProcessed := P.counters.bytesProcessed + bytesOfWords n } := rfl
@[simp] theorem Parser.addProcessed_call (n : Nat) (P : Parser) : (P.addProcessed n).call = P.call := rfl
@[simp] theorem Parser.addProcessed_emitted (n : Nat) (P : Parser) : (P.addProcessed n).emitted = P.emitted := rfl

@[simp] theorem Parser.addBufferLoss_session (g : BitVec 32) (P : Parser) : (P.addBufferLoss g).session = P.session := rfl
@[simp] theorem Parser.addBufferLoss_rs (g : BitVec 32) (P : Parser) : (P.addBufferLoss g).rs = P.rs := rfl
@[simp] theorem Parser.addBufferLoss_eventIndex (g : BitVec 32) (P : Parser) : (P.addBufferLoss g).eventIndex = P.eventIndex := rfl
@[simp] theorem Parser.addBufferLoss_moduleIndex (g : BitVec 32) (P : Parser) : (P.addBufferLoss g).moduleIndex = P.moduleIndex := rfl
@[simp] theorem Parser.addBufferLoss_phase (g : BitVec 32) (P : Parser) : (P.addBufferLoss g).phase = P.phase := rfl
@[simp] theorem Parser.addBufferLoss_stackF (g : BitVec 32) (P : Parser) : (P.addBufferLoss g).stackF = P.stackF := rfl
@[simp] theorem Parser.addBufferLoss_blockF (g : BitVec 32) (P : Parser) : (P.addBufferLoss g).blockF = P.blockF := rfl
@[simp] theorem Parser.addBufferLoss_spans (g : BitVec 32) (P : Parser) : (P.addBufferLoss g).spans = P.spans := rfl
@[simp] theorem Parser.addBufferLoss_scratch (g : BitVec 32) (P : Parser) : (P.addBufferLoss g).scratch = P.scratch := rfl
@[simp] theorem Parser.addBufferLoss_used (g : BitVec 32) (P : Parser) : (P.addBufferLoss g).used = P.used := rfl
@[simp] theorem Parser.addBufferLoss_lastBufferNumber (g : BitVec 32) (P : Parser) : (P.addBufferLoss g).lastBufferNumber = P.lastBufferNumber := rfl
@[simp] theorem Parser.addBufferLoss_bufSeqValid (g : BitVec 32) (P : Parser) : (P.addBufferLoss g).bufSeqValid = P.bufSeqValid := rfl
@[simp] theorem Parser.addBufferLoss_lastPacketNumber (g : BitVec 32) (P : Parser) : (P.addBufferLoss g).lastPacketNumber = P.lastPacketNumber := rfl
@[simp] theorem Parser.addBufferLoss_pktSeqValid (g : BitVec 32) (P : Parser) : (P.addBufferLoss g).pktSeqValid = P.pktSeqValid := rfl
@[simp] theorem Parser.addBufferLoss_counters (g : BitVec 32) (P : Parser) : (P.addBufferLoss g).counters = { P.counters with bufferLoss := P.counters.bufferLoss + g.setWidth 64 } := rfl
@[simp] theorem Parser.addBufferLoss_call (g : BitVec 32) (P : Parser) : (P.addBufferLoss g).call = P.call := rfl
@[simp] theorem Parser.addBufferLoss_emitted (g : BitVec 32) (P : Parser) : (P.addBufferLoss g).emitted = P.emitted := rfl

@[simp] theorem Parser.addPacketLoss_session (g : BitVec 12) (P : Parser) : (P.addPacketLoss g).session = P.session := rfl
@[simp] theorem Parser.addPacketLoss_rs (g : BitVec 12) (P : Parser) : (P.addPacketLoss g).rs = P.rs := rfl
@[simp] theorem Parser.addPacketLoss_eventIndex (g : BitVec 12) (P : Parser) : (P.addPacketLoss g).eventIndex = P.eventIndex := rfl
@[simp] theorem Parser.addPacketLoss_moduleIndex (g : BitVec 12) (P : Parser) : (P.addPacketLoss g).moduleIndex = P.moduleIndex := rfl
@[simp] theorem Parser.addPacketLoss_phase (g : BitVec 12) (P : Parser) : (P.addPacketLoss g).phase = P.phase := rfl
@[simp] theorem Parser.addPacketLoss_stackF (g : BitVec 12) (P : Parser) : (P.addPacketLoss g).stackF = P.stackF := rfl
@[simp] theorem Parser.addPacketLoss_blockF (g : BitVec 12) (P : Parser) : (P.addPacketLoss g).blockF = P.blockF := rfl
@[simp] theorem Parser.addPacketLoss_spans (g : BitVec 12) (P : Parser) : (P.addPacketLoss g).spans = P.spans := rfl
@[simp] theorem Parser.addPacketLoss_scratch (g : BitVec 12) (P : Parser) : (P.addPacketLoss g).scratch = P.scratch := rfl
@[simp] theorem Parser.addPacketLoss_used (g : BitVec 12) (P : Parser) : (P.addPacketLoss g).used = P.used := rfl
@[simp] theorem Parser.addPacketLoss_lastBufferNumber (g : BitVec 12) (P : Parser) : (P.addPacketLoss g).lastBufferNumber = P.lastBufferNumber := rfl
@[simp] theorem Parser.addPacketLoss_bufSeqValid (g : BitVec 12) (P : Parser) : (P.addPacketLoss g).bufSeqValid = P.bufSeqValid := rfl
@[simp] theorem Parser.addPacketLoss_lastPacketNumber (g : BitVec 12) (P : Parser) : (P.addPacketLoss g).lastPacketNumber = P.lastPacketNumber := rfl
@[simp] theorem Parser.addPacketLoss_pktSeqValid (g : BitVec 12) (P : Parser) : (P.addPacketLoss g).pktSeqValid = P.pktSeqValid := rfl
@[simp] theorem Parser.addPacketLoss_counters (g : BitVec 12) (P : Parser) : (P.addPacketLoss g).counters = { P.counters with ethPacketLoss := P.counters.ethPacketLoss + g.setWidth 64 } := rfl
@[simp] theorem Parser.addPacketLoss_call (g : BitVec 12) (P : Parser) : (P.addPacketLoss g).call = P.call := rfl
@[simp] theorem Parser.addPacketLoss_emitted (g : BitVec 12) (P : Parser) : (P.addPacketLoss g).emitted = P.emitted := rfl

@[simp] theorem Parser.advance_session (n : Nat) (P : Parser) : (P.advance n).session = P.session := rfl
@[simp] theorem Parser.advance_rs (n : Nat) (P : Parser) : (P.advance n).rs = P.rs := rfl
@[simp] theorem Parser.advance_eventIndex (n : Nat) (P : Parser) : (P.advance n).eventIndex = P.eventIndex := rfl
@[simp] theorem Parser.advance_moduleIndex (n : Nat) (P : Parser) : (P.advance n).moduleIndex = P.moduleIndex := rfl
@[simp] theorem Parser.advance_phase (n : Nat) (P : Parser) : (P.advance n).phase = P.phase := rfl
@[simp] theorem Parser.advance_stackF (n : Nat) (P : Parser) : (P.advance n).stackF = P.stackF := rfl
@[simp] theorem Parser.advance_blockF (n : Nat) (P : Parser) : (P.advance n).blockF = P.blockF := rfl
@[simp] theorem Parser.advance_spans (n : Nat) (P : Parser) : (P.advance n).spans = P.spans := rfl
@[simp] theorem Parser.advance_scratch (n : Nat) (P : Parser) : (P.advance n).scratch = P.scratch := rfl
@[simp] theorem Parser.advance_used (n : Nat) (P : Parser) : (P.advance n).used = P.used := rfl
@[simp] theorem Parser.advance_lastBufferNumber (n : Nat) (P : Parser) : (P.advance n).lastBufferNumber = P.lastBufferNumber := rfl
@[simp] theorem Parser.advance_bufSeqValid (n : Nat) (P : Parser) : (P.advance n).bufSeqValid = P.bufSeqValid := rfl
@[simp] theorem Parser.advance_lastPacketNumber (n : Nat) (P : Parser) : (P.advance n).lastPacketNumber = P.lastPacketNumber := rfl
@[simp] theorem Parser.advance_pktSeqValid (n : Nat) (P : Parser) : (P.advance n).pktSeqValid = P.pktSeqValid := rfl
@[simp] theorem Parser.advance_counters (n : Nat) (P : Parser) : (P.advance n).counters = P.counters := rfl
@[simp] theorem Parser.advance_call (n : Nat) (P : Parser) : (P.advance n).call = { P.call with rp := P.call.rp + n } := rfl
@[simp] theorem Parser.advance_emitted (n : Nat) (P : Parser) : (P.advance n).emitted = P.emitted := rfl

@[simp] theorem Parser.markTook_session (P : Parser) : (P.markTook).session = P.session := rfl
@[simp] theorem Parser.markTook_rs (P : Parser) : (P.markTook).rs = P.rs := rfl
@[simp] theorem Parser.markTook_eventIndex (P : Parser) : (P.markTook).eventIndex = P.eventIndex := rfl
@[simp] theorem Parser.markTook_moduleIndex (P : Parser) : (P.markTook).moduleIndex = P.moduleIndex := rfl
@[simp] theorem Parser.markTook_phase (P : Parser) : (P.markTook).phase = P.phase := rfl
@[simp] theorem Parser.markTook_stackF (P : Parser) : (P.markTook).stackF = P.stackF := rfl
@[simp] theorem Parser.markTook_blockF (P : Parser) : (P.markTook).blockF = P.blockF := rfl
@[simp] theorem Parser.markTook_spans (P : Parser) : (P.markTook).spans = P.spans := rfl
@[simp] theorem Parser.markTook_scratch (P : Parser) : (P.markTook).scratch = P.scratch := rfl
@[simp] theorem Parser.markTook_used (P : Parser) : (P.markTook).used = P.used := rfl
@[simp] theorem Parser.markTook_lastBufferNumber (P : Parser) : (P.markTook).lastBufferNumber = P.lastBufferNumber := rfl
@[simp] theorem Parser.markTook_bufSeqValid (P : Parser) : (P.markTook).bufSeqValid = P.bufSeqValid := rfl
@[simp] theorem Parser.markTook_lastPacketNumber (P : Parser) : (P.markTook).lastPacketNumber = P.lastPacketNumber := rfl
@[simp] theorem Parser.markTook_pktSeqValid (P : Parser) : (P.markTook).pktSeqValid = P.pktSeqValid := rfl
@[simp] theorem Parser.markTook_counters (P : Parser) : (P.markTook).counters = P.counters := rfl
@[simp] theorem Parser.markTook_call (P : Parser) : (P.markTook).call = { P.call with unitTook := true } := rfl
@[simp] theorem Parser.markTook_emitted (P : Parser) : (P.markTook).emitted = P.emitted := rfl

@[simp] theorem Parser.markSkipped_session (P : Parser) : (P.markSkipped).session = P.session := rfl
@[simp] theorem Parser.markSkipped_rs (P : Parser) : (P.markSkipped).rs = P.rs := rfl
@[simp] theorem Parser.markSkipped_eventIndex (P : Parser) : (P.markSkipped).eventIndex = P.eventIndex := rfl
@[simp] theorem Parser.markSkipped_moduleIndex (P : Parser) : (P.markSkipped).moduleIndex = P.moduleIndex := rfl
@[simp] theorem Parser.markSkipped_phase (P : Parser) : (P.markSkipped).phase = P.phase := rfl
@[simp] theorem Parser.markSkipped_stackF (P : Parser) : (P.markSkipped).stackF = P.stackF := rfl
@[simp] theorem Parser.markSkipped_blockF (P : Parser) : (P.markSkipped).blockF = P.blockF := rfl
@[simp] theorem Parser.markSkipped_spans (P : Parser) : (P.markSkipped).spans = P.spans := rfl
@[simp] theorem Parser.markSkipped_scratch (P : Parser) : (P.markSkipped).scratch = P.scratch := rfl
@[simp] theorem Parser.markSkipped_used (P : Parser) : (P.markSkipped).used = P.used := rfl
@[simp] theorem Parser.markSkipped_lastBufferNumber (P : Parser) : (P.markSkipped).lastBufferNumber = P.lastBufferNumber := rfl
@[simp] theorem Parser.markSkipped_bufSeqValid (P : Parser) : (P.markSkipped).bufSeqValid = P.bufSeqValid := rfl
@[simp] theorem Parser.markSkipped_lastPacketNumber (P : Parser) : (P.markSkipped).lastPacketNumber = P.lastPacketNumber := rfl
@[simp] theorem Parser.markSkipped_pktSeqValid (P : Parser) : (P.markSkipped).pktSeqValid = P.pktSeqValid := rfl
@[simp] theorem Parser.markSkipped_counters (P : Parser) : (P.markSkipped).counters = P.counters := rfl
@[simp] theorem Parser.markSkipped_call (P : Parser) : (P.markSkipped).call = { P.call with unitSkipped := true } := rfl
@[simp] theorem Parser.markSkipped_emitted (P : Parser) : (P.markSkipped).emitted = P.emitted := rfl

@[simp] theorem Parser.clearRaised_session (P : Parser) : (P.clearRaised).session = P.session := rfl
@[simp] theorem Parser.clearRaised_rs (P : Parser) : (P.clearRaised).rs = P.rs := rfl
@[simp] theorem Parser.clearRaised_eventIndex (P : Parser) : (P.clearRaised).eventIndex = P.eventIndex := rfl
@[simp] theorem Parser.clearRaised_moduleIndex (P : Parser) : (P.clearRaised).moduleIndex = P.moduleIndex := rfl
@[simp] theorem Parser.clearRaised_phase (P : Parser) : (P.clearRaised).phase = P.phase := rfl
@[simp] theorem Parser.clearRaised_stackF (P : Parser) : (P.clearRaised).stackF = P.stackF := rfl
@[simp] theorem Parser.clearRaised_blockF (P : Parser) : (P.clearRaised).blockF = P.blockF := rfl
@[simp] theorem Parser.clearRaised_spans (P : Parser) : (P.clearRaised).spans = P.spans := rfl
@[simp] theorem Parser.clearRaised_scratch (P : Parser) : (P.clearRaised).scratch = P.scratch := rfl
@[simp] theorem Parser.clearRaised_used (P : Parser) : (P.clearRaised).used = P.used := rfl
@[simp] theorem Parser.clearRaised_lastBufferNumber (P : Parser) : (P.clearRaised).lastBufferNumber = P.lastBufferNumber := rfl
@[simp] theorem Parser.clearRaised_bufSeqValid (P : Parser) : (P.clearRaised).bufSeqValid = P.bufSeqValid := rfl
@[simp] theorem Parser.clearRaised_lastPacketNumber (P : Parser) : (P.clearRaised).lastPacketNumber = P.lastPacketNumber := rfl
@[simp] theorem Parser.clearRaised_pktSeqValid (P : Parser) : (P.clearRaised).pktSeqValid = P.pktSeqValid := rfl
@[simp] theorem Parser.clearRaised_counters (P : Parser) : (P.clearRaised).counters = P.counters := rfl
@[simp] theorem Parser.clearRaised_call (P : Parser) : (P.clearRaised).call = { P.call with raised := false } := rfl
@[simp] theorem Parser.clearRaised_emitted (P : Parser) : (P.clearRaised).emitted = P.emitted := rfl

@[simp] theorem Parser.noteCallFirst_session (o : ParseOutcome) (P : Parser) : (P.noteCallFirst o).session = P.session := rfl
@[simp] theorem Parser.noteCallFirst_rs (o : ParseOutcome) (P : Parser) : (P.noteCallFirst o).rs = P.rs := rfl
@[simp] theorem Parser.noteCallFirst_eventIndex (o : ParseOutcome) (P : Parser) : (P.noteCallFirst o).eventIndex = P.eventIndex := rfl
@[simp] theorem Parser.noteCallFirst_moduleIndex (o : ParseOutcome) (P : Parser) : (P.noteCallFirst o).moduleIndex = P.moduleIndex := rfl
@[simp] theorem Parser.noteCallFirst_phase (o : ParseOutcome) (P : Parser) : (P.noteCallFirst o).phase = P.phase := rfl
@[simp] theorem Parser.noteCallFirst_stackF (o : ParseOutcome) (P : Parser) : (P.noteCallFirst o).stackF = P.stackF := rfl
@[simp] theorem Parser.noteCallFirst_blockF (o : ParseOutcome) (P : Parser) : (P.noteCallFirst o).blockF = P.blockF := rfl
@[simp] theorem Parser.noteCallFirst_spans (o : ParseOutcome) (P : Parser) : (P.noteCallFirst o).spans = P.spans := rfl
@[simp] theorem Parser.noteCallFirst_scratch (o : ParseOutcome) (P : Parser) : (P.noteCallFirst o).scratch = P.scratch := rfl
@[simp] theorem Parser.noteCallFirst_used (o : ParseOutcome) (P : Parser) : (P.noteCallFirst o).used = P.used := rfl
@[simp] theorem Parser.noteCallFirst_lastBufferNumber (o : ParseOutcome) (P : Parser) : (P.noteCallFirst o).lastBufferNumber = P.lastBufferNumber := rfl
@[simp] theorem Parser.noteCallFirst_bufSeqValid (o : ParseOutcome) (P : Parser) : (P.noteCallFirst o).bufSeqValid = P.bufSeqValid := rfl
@[simp] theorem Parser.noteCallFirst_lastPacketNumber (o : ParseOutcome) (P : Parser) : (P.noteCallFirst o).lastPacketNumber = P.lastPacketNumber := rfl
@[simp] theorem Parser.noteCallFirst_pktSeqValid (o : ParseOutcome) (P : Parser) : (P.noteCallFirst o).pktSeqValid = P.pktSeqValid := rfl
@[simp] theorem Parser.noteCallFirst_counters (o : ParseOutcome) (P : Parser) : (P.noteCallFirst o).counters = P.counters := rfl
@[simp] theorem Parser.noteCallFirst_call (o : ParseOutcome) (P : Parser) : (P.noteCallFirst o).call = { P.call with callFirst := P.call.callFirst.or (some o) } := rfl
@[simp] theorem Parser.noteCallFirst_emitted (o : ParseOutcome) (P : Parser) : (P.noteCallFirst o).emitted = P.emitted := rfl

@[simp] theorem Parser.callBegin_session (P : Parser) : (P.callBegin).session = P.session := rfl
@[simp] theorem Parser.callBegin_rs (P : Parser) : (P.callBegin).rs = P.rs := rfl
@[simp] theorem Parser.callBegin_eventIndex (P : Parser) : (P.callBegin).eventIndex = P.eventIndex := rfl
@[simp] theorem Parser.callBegin_moduleIndex (P : Parser) : (P.callBegin).moduleIndex = P.moduleIndex := rfl
@[simp] theorem Parser.callBegin_phase (P : Parser) : (P.callBegin).phase = P.phase := rfl
@[simp] theorem Parser.callBegin_stackF (P : Parser) : (P.callBegin).stackF = P.stackF := rfl
@[simp] theorem Parser.callBegin_blockF (P : Parser) : (P.callBegin).blockF = P.blockF := rfl
@[simp] theorem Parser.callBegin_spans (P : Parser) : (P.callBegin).spans = P.spans := rfl
@[simp] theorem Parser.callBegin_scratch (P : Parser) : (P.callBegin).scratch = P.scratch := rfl
@[simp] theorem Parser.callBegin_used (P : Parser) : (P.callBegin).used = P.used := rfl
@[simp] theorem Parser.callBegin_lastBufferNumber (P : Parser) : (P.callBegin).lastBufferNumber = P.lastBufferNumber := rfl
@[simp] theorem Parser.callBegin_bufSeqValid (P : Parser) : (P.callBegin).bufSeqValid = P.bufSeqValid := rfl
@[simp] theorem Parser.callBegin_lastPacketNumber (P : Parser) : (P.callBegin).lastPacketNumber = P.lastPacketNumber := rfl
@[simp] theorem Parser.callBegin_pktSeqValid (P : Parser) : (P.callBegin).pktSeqValid = P.pktSeqValid := rfl
@[simp] theorem Parser.callBegin_counters (P : Parser) : (P.callBegin).counters = P.counters := rfl
@[simp] theorem Parser.callBegin_call (P : Parser) : (P.callBegin).call = CallState.idle := rfl
@[simp] theorem Parser.callBegin_emitted (P : Parser) : (P.callBegin).emitted = P.emitted := rfl

@[simp] theorem Parser.endCall_session (P : Parser) : (P.endCall).session = P.session := rfl
@[simp] theorem Parser.endCall_rs (P : Parser) : (P.endCall).rs = P.rs := rfl
@[simp] theorem Parser.endCall_eventIndex (P : Parser) : (P.endCall).eventIndex = P.eventIndex := rfl
@[simp] theorem Parser.endCall_moduleIndex (P : Parser) : (P.endCall).moduleIndex = P.moduleIndex := rfl
@[simp] theorem Parser.endCall_phase (P : Parser) : (P.endCall).phase = P.phase := rfl
@[simp] theorem Parser.endCall_stackF (P : Parser) : (P.endCall).stackF = P.stackF := rfl
@[simp] theorem Parser.endCall_blockF (P : Parser) : (P.endCall).blockF = P.blockF := rfl
@[simp] theorem Parser.endCall_spans (P : Parser) : (P.endCall).spans = P.spans := rfl
@[simp] theorem Parser.endCall_scratch (P : Parser) : (P.endCall).scratch = P.scratch := rfl
@[simp] theorem Parser.endCall_used (P : Parser) : (P.endCall).used = P.used := rfl
@[simp] theorem Parser.endCall_lastBufferNumber (P : Parser) : (P.endCall).lastBufferNumber = P.lastBufferNumber := rfl
@[simp] theorem Parser.endCall_bufSeqValid (P : Parser) : (P.endCall).bufSeqValid = P.bufSeqValid := rfl
@[simp] theorem Parser.endCall_lastPacketNumber (P : Parser) : (P.endCall).lastPacketNumber = P.lastPacketNumber := rfl
@[simp] theorem Parser.endCall_pktSeqValid (P : Parser) : (P.endCall).pktSeqValid = P.pktSeqValid := rfl
@[simp] theorem Parser.endCall_counters (P : Parser) : (P.endCall).counters = P.counters := rfl
@[simp] theorem Parser.endCall_call (P : Parser) : (P.endCall).call = CallState.idle := rfl
@[simp] theorem Parser.endCall_emitted (P : Parser) : (P.endCall).emitted = P.emitted := rfl

@[simp] theorem Parser.atStage_session (g : CallStage) (P : Parser) : (P.atStage g).session = P.session := rfl
@[simp] theorem Parser.atStage_rs (g : CallStage) (P : Parser) : (P.atStage g).rs = P.rs := rfl
@[simp] theorem Parser.atStage_eventIndex (g : CallStage) (P : Parser) : (P.atStage g).eventIndex = P.eventIndex := rfl
@[simp] theorem Parser.atStage_moduleIndex (g : CallStage) (P : Parser) : (P.atStage g).moduleIndex = P.moduleIndex := rfl
@[simp] theorem Parser.atStage_phase (g : CallStage) (P : Parser) : (P.atStage g).phase = P.phase := rfl
@[simp] theorem Parser.atStage_stackF (g : CallStage) (P : Parser) : (P.atStage g).stackF = P.stackF := rfl
@[simp] theorem Parser.atStage_blockF (g : CallStage) (P : Parser) : (P.atStage g).blockF = P.blockF := rfl
@[simp] theorem Parser.atStage_spans (g : CallStage) (P : Parser) : (P.atStage g).spans = P.spans := rfl
@[simp] theorem Parser.atStage_scratch (g : CallStage) (P : Parser) : (P.atStage g).scratch = P.scratch := rfl
@[simp] theorem Parser.atStage_used (g : CallStage) (P : Parser) : (P.atStage g).used = P.used := rfl
@[simp] theorem Parser.atStage_lastBufferNumber (g : CallStage) (P : Parser) : (P.atStage g).lastBufferNumber = P.lastBufferNumber := rfl
@[simp] theorem Parser.atStage_bufSeqValid (g : CallStage) (P : Parser) : (P.atStage g).bufSeqValid = P.bufSeqValid := rfl
@[simp] theorem Parser.atStage_lastPacketNumber (g : CallStage) (P : Parser) : (P.atStage g).lastPacketNumber = P.lastPacketNumber := rfl
@[simp] theorem Parser.atStage_pktSeqValid (g : CallStage) (P : Parser) : (P.atStage g).pktSeqValid = P.pktSeqValid := rfl
@[simp] theorem Parser.atStage_counters (g : CallStage) (P : Parser) : (P.atStage g).counters = P.counters := rfl
@[simp] theorem Parser.atStage_call (g : CallStage) (P : Parser) : (P.atStage g).call = { P.call with stage := g } := rfl
@[simp] theorem Parser.atStage_emitted (g : CallStage) (P : Parser) : (P.atStage g).emitted = P.emitted := rfl

@[simp] theorem Parser.openUnit_session (U : List Word) (n : Nat) (P : Parser) : (P.openUnit U n).session = P.session := rfl
@[simp] theorem Parser.openUnit_rs (U : List Word) (n : Nat) (P : Parser) : (P.openUnit U n).rs = P.rs := rfl
@[simp] theorem Parser.openUnit_eventIndex (U : List Word) (n : Nat) (P : Parser) : (P.openUnit U n).eventIndex = P.eventIndex := rfl
@[simp] theorem Parser.openUnit_moduleIndex (U : List Word) (n : Nat) (P : Parser) : (P.openUnit U n).moduleIndex = P.moduleIndex := rfl
@[simp] theorem Parser.openUnit_phase (U : List Word) (n : Nat) (P : Parser) : (P.openUnit U n).phase = P.phase := rfl
@[simp] theorem Parser.openUnit_stackF (U : List Word) (n : Nat) (P : Parser) : (P.openUnit U n).stackF = P.stackF := rfl
@[simp] theorem Parser.openUnit_blockF (U : List Word) (n : Nat) (P : Parser) : (P.openUnit U n).blockF = P.blockF := rfl
@[simp] theorem Parser.openUnit_spans (U : List Word) (n : Nat) (P : Parser) : (P.openUnit U n).spans = P.spans := rfl
@[simp] theorem Parser.openUnit_scratch (U : List Word) (n : Nat) (P : Parser) : (P.openUnit U n).scratch = P.scratch := rfl
@[simp] theorem Parser.openUnit_used (U : List Word) (n : Nat) (P : Parser) : (P.openUnit U n).used = P.used := rfl
@[simp] theorem Parser.openUnit_lastBufferNumber (U : List Word) (n : Nat) (P : Parser) : (P.openUnit U n).lastBufferNumber = P.lastBufferNumber := rfl
@[simp] theorem Parser.openUnit_bufSeqValid (U : List Word) (n : Nat) (P : Parser) : (P.openUnit U n).bufSeqValid = P.bufSeqValid := rfl
@[simp] theorem Parser.openUnit_lastPacketNumber (U : List Word) (n : Nat) (P : Parser) : (P.openUnit U n).lastPacketNumber = P.lastPacketNumber := rfl
@[simp] theorem Parser.openUnit_pktSeqValid (U : List Word) (n : Nat) (P : Parser) : (P.openUnit U n).pktSeqValid = P.pktSeqValid := rfl
@[simp] theorem Parser.openUnit_counters (U : List Word) (n : Nat) (P : Parser) : (P.openUnit U n).counters = { P.counters with unusedBytes := P.counters.unusedBytes + bytesOfWords n } := rfl
@[simp] theorem Parser.openUnit_call (U : List Word) (n : Nat) (P : Parser) : (P.openUnit U n).call = { P.call with unit := U, rp := n, unitFirst := none, unitStartedIdle := decide (P.eventIndex < 0), unitTook := false, unitSkipped := decide (0 < n), raised := false } := rfl
@[simp] theorem Parser.openUnit_emitted (U : List Word) (n : Nat) (P : Parser) : (P.openUnit U n).emitted = P.emitted := rfl

@[simp] theorem Parser.clearEventState_session (P : Parser) : (P.clearEventState).session = P.session := rfl
@[simp] theorem Parser.clearEventState_rs (P : Parser) : (P.clearEventState).rs = P.rs := rfl
@[simp] theorem Parser.clearEventState_eventIndex (P : Parser) : (P.clearEventState).eventIndex = -1 := rfl
@[simp] theorem Parser.clearEventState_moduleIndex (P : Parser) : (P.clearEventState).moduleIndex = -1 := rfl
@[simp] theorem Parser.clearEventState_phase (P : Parser) : (P.clearEventState).phase = .prefixPhase := rfl
@[simp] theorem Parser.clearEventState_stackF (P : Parser) : (P.clearEventState).stackF = Cursor.closed := rfl
@[simp] theorem Parser.clearEventState_blockF (P : Parser) : (P.clearEventState).blockF = Cursor.closed := rfl
@[simp] theorem Parser.clearEventState_spans (P : Parser) : (P.clearEventState).spans = [] := rfl
@[simp] theorem Parser.clearEventState_scratch (P : Parser) : (P.clearEventState).scratch = [] := rfl
@[simp] theorem Parser.clearEventState_used (P : Parser) : (P.clearEventState).used = 0 := rfl
@[simp] theorem Parser.clearEventState_lastBufferNumber (P : Parser) : (P.clearEventState).lastBufferNumber = P.lastBufferNumber := rfl
@[simp] theorem Parser.clearEventState_bufSeqValid (P : Parser) : (P.clearEventState).bufSeqValid = P.bufSeqValid := rfl
@[simp] theorem Parser.clearEventState_lastPacketNumber (P : Parser) : (P.clearEventState).lastPacketNumber = P.lastPacketNumber := rfl
@[simp] theorem Parser.clearEventState_pktSeqValid (P : Parser) : (P.clearEventState).pktSeqValid = P.pktSeqValid := rfl
@[simp] theorem Parser.clearEventState_counters (P : Parser) : (P.clearEventState).counters = P.counters := rfl
@[simp] theorem Parser.clearEventState_call (P : Parser) : (P.clearEventState).call = P.call := rfl
@[simp] theorem Parser.clearEventState_emitted (P : Parser) : (P.clearEventState).emitted = P.emitted := rfl

@[simp] theorem Parser.raise_session (o : ParseOutcome) (P : Parser) : (P.raise o).session = P.session := rfl
@[simp] theorem Parser.raise_rs (o : ParseOutcome) (P : Parser) : (P.raise o).rs = P.rs := rfl
@[simp] theorem Parser.raise_eventIndex (o : ParseOutcome) (P : Parser) : (P.raise o).eventIndex = -1 := rfl
@[simp] theorem Parser.raise_moduleIndex (o : ParseOutcome) (P : Parser) : (P.raise o).moduleIndex = -1 := rfl
@[simp] theorem Parser.raise_phase (o : ParseOutcome) (P : Parser) : (P.raise o).phase = .prefixPhase := rfl
@[simp] theorem Parser.raise_stackF (o : ParseOutcome) (P : Parser) : (P.raise o).stackF = Cursor.closed := rfl
@[simp] theorem Parser.raise_blockF (o : ParseOutcome) (P : Parser) : (P.raise o).blockF = Cursor.closed := rfl
@[simp] theorem Parser.raise_spans (o : ParseOutcome) (P : Parser) : (P.raise o).spans = [] := rfl
@[simp] theorem Parser.raise_scratch (o : ParseOutcome) (P : Parser) : (P.raise o).scratch = [] := rfl
@[simp] theorem Parser.raise_used (o : ParseOutcome) (P : Parser) : (P.raise o).used = 0 := rfl
@[simp] theorem Parser.raise_lastBufferNumber (o : ParseOutcome) (P : Parser) : (P.raise o).lastBufferNumber = P.lastBufferNumber := rfl
@[simp] theorem Parser.raise_bufSeqValid (o : ParseOutcome) (P : Parser) : (P.raise o).bufSeqValid = P.bufSeqValid := rfl
@[simp] theorem Parser.raise_lastPacketNumber (o : ParseOutcome) (P : Parser) : (P.raise o).lastPacketNumber = P.lastPacketNumber := rfl
@[simp] theorem Parser.raise_pktSeqValid (o : ParseOutcome) (P : Parser) : (P.raise o).pktSeqValid = P.pktSeqValid := rfl
@[simp] theorem Parser.raise_counters (o : ParseOutcome) (P : Parser) : (P.raise o).counters = { P.counters with parseResults := P.counters.parseResults.bump o } := rfl
@[simp] theorem Parser.raise_call (o : ParseOutcome) (P : Parser) : (P.raise o).call = P.call.noteOutcome o := rfl
@[simp] theorem Parser.raise_emitted (o : ParseOutcome) (P : Parser) : (P.raise o).emitted = P.emitted := rfl

@[simp] theorem Parser.countException_session (o : ParseOutcome) (P : Parser) : (P.countException o).session = P.session := by
  unfold Parser.countException; split <;> rfl
@[simp] theorem Parser.countException_rs (o : ParseOutcome) (P : Parser) : (P.countException o).rs = P.rs := by
  unfold Parser.countException; split <;> rfl
@[simp] theorem Parser.countException_eventIndex (o : ParseOutcome) (P : Parser) : (P.countException o).eventIndex = P.eventIndex := by
  unfold Parser.countException; split <;> rfl
@[simp] theorem Parser.countException_moduleIndex (o : ParseOutcome) (P : Parser) : (P.countException o).moduleIndex = P.moduleIndex := by
  unfold Parser.countException; split <;> rfl
@[simp] theorem Parser.countException_phase (o : ParseOutcome) (P : Parser) : (P.countException o).phase = P.phase := by
  unfold Parser.countException; split <;> rfl
@[simp] theorem Parser.countException_stackF (o : ParseOutcome) (P : Parser) : (P.countException o).stackF = P.stackF := by
  unfold Parser.countException; split <;> rfl
@[simp] theorem Parser.countException_blockF (o : ParseOutcome) (P : Parser) : (P.countException o).blockF = P.blockF := by
  unfold Parser.countException; split <;> rfl
@[simp] theorem Parser.countException_spans (o : ParseOutcome) (P : Parser) : (P.countException o).spans = P.spans := by
  unfold Parser.countException; split <;> rfl
@[simp] theorem Parser.countException_scratch (o : ParseOutcome) (P : Parser) : (P.countException o).scratch = P.scratch := by
  unfold Parser.countException; split <;> rfl
@[simp] theorem Parser.countException_used (o : ParseOutcome) (P : Parser) : (P.countException o).used = P.used := by
  unfold Parser.countException; split <;> rfl
@[simp] theorem Parser.countException_lastBufferNumber (o : ParseOutcome) (P : Parser) : (P.countException o).lastBufferNumber = P.lastBufferNumber := by
  unfold Parser.countException; split <;> rfl
@[simp] theorem Parser.countException_bufSeqValid (o : ParseOutcome) (P : Parser) : (P.countException o).bufSeqValid = P.bufSeqValid := by
  unfold Parser.countException; split <;> rfl
@[simp] theorem Parser.countException_lastPacketNumber (o : ParseOutcome) (P : Parser) : (P.countException o).lastPacketNumber = P.lastPacketNumber := by
  unfold Parser.countException; split <;> rfl
@[simp] theorem Parser.countException_pktSeqValid (o : ParseOutcome) (P : Parser) : (P.countException o).pktSeqValid = P.pktSeqValid := by
  unfold Parser.countException; split <;> rfl
@[simp] theorem Parser.countException_counters (o : ParseOutcome) (P : Parser) : (P.countException o).counters = if o = .unhandledException then { P.counters with exceptionCount := P.counters.exceptionCount + 1 } else P.counters := by
  unfold Parser.countException; split <;> rfl
@[simp] theorem Parser.countException_call (o : ParseOutcome) (P : Parser) : (P.countException o).call = P.call := by
  unfold Parser.countException; split <;> rfl
@[simp] theorem Parser.countException_emitted (o : ParseOutcome) (P : Parser) : (P.countException o).emitted = P.emitted := by
  unfold Parser.countException; split <;> rfl

@[simp] theorem Parser.abandonUnit_session (P : Parser) : (P.abandonUnit).session = P.session := rfl
@[simp] theorem Parser.abandonUnit_rs (P : Parser) : (P.abandonUnit).rs = P.rs := rfl
@[simp] theorem Parser.abandonUnit_eventIndex (P : Parser) : (P.abandonUnit).eventIndex = P.eventIndex := rfl
@[simp] theorem Parser.abandonUnit_moduleIndex (P : Parser) : (P.abandonUnit).moduleIndex = P.moduleIndex := rfl
@[simp] theorem Parser.abandonUnit_phase (P : Parser) : (P.abandonUnit).phase = P.phase := rfl
@[simp] theorem Parser.abandonUnit_stackF (P : Parser) : (P.abandonUnit).stackF = P.stackF := rfl
@[simp] theorem Parser.abandonUnit_blockF (P : Parser) : (P.abandonUnit).blockF = P.blockF := rfl
@[simp] theorem Parser.abandonUnit_spans (P : Parser) : (P.abandonUnit).spans = P.spans := rfl
@[simp] theorem Parser.abandonUnit_scratch (P : Parser) : (P.abandonUnit).scratch = P.scratch := rfl
@[simp] theorem Parser.abandonUnit_used (P : Parser) : (P.abandonUnit).used = P.used := rfl
@[simp] theorem Parser.abandonUnit_lastBufferNumber (P : Parser) : (P.abandonUnit).lastBufferNumber = P.lastBufferNumber := rfl
@[simp] theorem Parser.abandonUnit_bufSeqValid (P : Parser) : (P.abandonUnit).bufSeqValid = P.bufSeqValid := rfl
@[simp] theorem Parser.abandonUnit_lastPacketNumber (P : Parser) : (P.abandonUnit).lastPacketNumber = P.lastPacketNumber := rfl
@[simp] theorem Parser.abandonUnit_pktSeqValid (P : Parser) : (P.abandonUnit).pktSeqValid = P.pktSeqValid := rfl
@[simp] theorem Parser.abandonUnit_counters (P : Parser) : (P.abandonUnit).counters = { P.counters with unusedBytes := P.counters.unusedBytes + bytesOfWords P.remaining } := rfl
@[simp] theorem Parser.abandonUnit_call (P : Parser) : (P.abandonUnit).call = { P.call with rp := P.call.unit.length } := rfl
@[simp] theorem Parser.abandonUnit_emitted (P : Parser) : (P.abandonUnit).emitted = P.emitted := rfl

@[simp] theorem Parser.fault_session (o : ParseOutcome) (P : Parser) : (P.fault o).session = P.session := by
  simp [Parser.fault]
@[simp] theorem Parser.fault_rs (o : ParseOutcome) (P : Parser) : (P.fault o).rs = P.rs := by
  simp [Parser.fault]
@[simp] theorem Parser.fault_eventIndex (o : ParseOutcome) (P : Parser) : (P.fault o).eventIndex = -1 := by
  simp [Parser.fault]
@[simp] theorem Parser.fault_moduleIndex (o : ParseOutcome) (P : Parser) : (P.fault o).moduleIndex = -1 := by
  simp [Parser.fault]
@[simp] theorem Parser.fault_phase (o : ParseOutcome) (P : Parser) : (P.fault o).phase = .prefixPhase := by
  simp [Parser.fault]
@[simp] theorem Parser.fault_stackF (o : ParseOutcome) (P : Parser) : (P.fault o).stackF = Cursor.closed := by
  simp [Parser.fault]
@[simp] theorem Parser.fault_blockF (o : ParseOutcome) (P : Parser) : (P.fault o).blockF = Cursor.closed := by
  simp [Parser.fault]
@[simp] theorem Parser.fault_spans (o : ParseOutcome) (P : Parser) : (P.fault o).spans = [] := by
  simp [Parser.fault]
@[simp] theorem Parser.fault_scratch (o : ParseOutcome) (P : Parser) : (P.fault o).scratch = [] := by
  simp [Parser.fault]
@[simp] theorem Parser.fault_used (o : ParseOutcome) (P : Parser) : (P.fault o).used = 0 := by
  simp [Parser.fault]
@[simp] theorem Parser.fault_lastBufferNumber (o : ParseOutcome) (P : Parser) : (P.fault o).lastBufferNumber = P.lastBufferNumber := by
  simp [Parser.fault]
@[simp] theorem Parser.fault_bufSeqValid (o : ParseOutcome) (P : Parser) : (P.fault o).bufSeqValid = P.bufSeqValid := by
  simp [Parser.fault]
@[simp] theorem Parser.fault_lastPacketNumber (o : ParseOutcome) (P : Parser) : (P.fault o).lastPacketNumber = P.lastPacketNumber := by
  simp [Parser.fault]
@[simp] theorem Parser.fault_pktSeqValid (o : ParseOutcome) (P : Parser) : (P.fault o).pktSeqValid = P.pktSeqValid := by
  simp [Parser.fault]
@[simp] theorem Parser.fault_call (o : ParseOutcome) (P : Parser) : (P.fault o).call = { P.call.noteOutcome o with rp := P.call.unit.length } := by
  simp [Parser.fault, CallState.noteOutcome]
@[simp] theorem Parser.fault_emitted (o : ParseOutcome) (P : Parser) : (P.fault o).emitted = P.emitted := by
  simp [Parser.fault]

@[simp] theorem Parser.emit_session (e : Emission) (P : Parser) : (P.emit e).session = P.session := rfl
@[simp] theorem Parser.emit_rs (e : Emission) (P : Parser) : (P.emit e).rs = P.rs := rfl
@[simp] theorem Parser.emit_eventIndex (e : Emission) (P : Parser) : (P.emit e).eventIndex = P.eventIndex := rfl
@[simp] theorem Parser.emit_moduleIndex (e : Emission) (P : Parser) : (P.emit e).moduleIndex = P.moduleIndex := rfl
@[simp] theorem Parser.emit_phase (e : Emission) (P : Parser) : (P.emit e).phase = P.phase := rfl
@[simp] theorem Parser.emit_stackF (e : Emission) (P : Parser) : (P.emit e).stackF = P.stackF := rfl
@[simp] theorem Parser.emit_blockF (e : Emission) (P : Parser) : (P.emit e).blockF = P.blockF := rfl
@[simp] theorem Parser.emit_spans (e : Emission) (P : Parser) : (P.emit e).spans = P.spans := rfl
@[simp] theorem Parser.emit_scratch (e : Emission) (P : Parser) : (P.emit e).scratch = P.scratch := rfl
@[simp] theorem Parser.emit_used (e : Emission) (P : Parser) : (P.emit e).used = P.used := rfl
@[simp] theorem Parser.emit_lastBufferNumber (e : Emission) (P : Parser) : (P.emit e).lastBufferNumber = P.lastBufferNumber := rfl
@[simp] theorem Parser.emit_bufSeqValid (e : Emission) (P : Parser) : (P.emit e).bufSeqValid = P.bufSeqValid := rfl
@[simp] theorem Parser.emit_lastPacketNumber (e : Emission) (P : Parser) : (P.emit e).lastPacketNumber = P.lastPacketNumber := rfl
@[simp] theorem Parser.emit_pktSeqValid (e : Emission) (P : Parser) : (P.emit e).pktSeqValid = P.pktSeqValid := rfl
@[simp] theorem Parser.emit_counters (e : Emission) (P : Parser) : (P.emit e).counters = P.counters := rfl
@[simp] theorem Parser.emit_call (e : Emission) (P : Parser) : (P.emit e).call = P.call := rfl
@[simp] theorem Parser.emit_emitted (e : Emission) (P : Parser) : (P.emit e).emitted = P.emitted ++ [e] := rfl

@[simp] theorem Parser.consume_session (P : Parser) : (P.consume).session = P.session := rfl
@[simp] theorem Parser.consume_rs (P : Parser) : (P.consume).rs = P.rs := rfl
@[simp] theorem Parser.consume_eventIndex (P : Parser) : (P.consume).eventIndex = P.eventIndex := rfl
@[simp] theorem Parser.consume_moduleIndex (P : Parser) : (P.consume).moduleIndex = P.moduleIndex := rfl
@[simp] theorem Parser.consume_phase (P : Parser) : (P.consume).phase = P.phase := rfl
@[simp] theorem Parser.consume_stackF (P : Parser) : (P.consume).stackF = { P.stackF with left := P.stackF.left - 1 } := rfl
@[simp] theorem Parser.consume_blockF (P : Parser) : (P.consume).blockF = P.blockF := rfl
@[simp] theorem Parser.consume_spans (P : Parser) : (P.consume).spans = P.spans := rfl
@[simp] theorem Parser.consume_scratch (P : Parser) : (P.consume).scratch = P.scratch := rfl
@[simp] theorem Parser.consume_used (P : Parser) : (P.consume).used = P.used := rfl
@[simp] theorem Parser.consume_lastBufferNumber (P : Parser) : (P.consume).lastBufferNumber = P.lastBufferNumber := rfl
@[simp] theorem Parser.consume_bufSeqValid (P : Parser) : (P.consume).bufSeqValid = P.bufSeqValid := rfl
@[simp] theorem Parser.consume_lastPacketNumber (P : Parser) : (P.consume).lastPacketNumber = P.lastPacketNumber := rfl
@[simp] theorem Parser.consume_pktSeqValid (P : Parser) : (P.consume).pktSeqValid = P.pktSeqValid := rfl
@[simp] theorem Parser.consume_counters (P : Parser) : (P.consume).counters = P.counters := rfl
@[simp] theorem Parser.consume_call (P : Parser) : (P.consume).call = { P.call with rp := P.call.rp + 1 } := rfl
@[simp] theorem Parser.consume_emitted (P : Parser) : (P.consume).emitted = P.emitted := rfl

@[simp] theorem Parser.emitEvent_session (P : Parser) : (P.emitEvent).session = P.session := rfl
@[simp] theorem Parser.emitEvent_rs (P : Parser) : (P.emitEvent).rs = P.rs := rfl
@[simp] theorem Parser.emitEvent_eventIndex (P : Parser) : (P.emitEvent).eventIndex = P.eventIndex := rfl
@[simp] theorem Parser.emitEvent_moduleIndex (P : Parser) : (P.emitEvent).moduleIndex = P.moduleIndex := rfl
@[simp] theorem Parser.emitEvent_phase (P : Parser) : (P.emitEvent).phase = P.phase := rfl
@[simp] theorem Parser.emitEvent_stackF (P : Parser) : (P.emitEvent).stackF = P.stackF := rfl
@[simp] theorem Parser.emitEvent_blockF (P : Parser) : (P.emitEvent).blockF = P.blockF := rfl
@[simp] theorem Parser.emitEvent_spans (P : Parser) : (P.emitEvent).spans = P.spans := rfl
@[simp] theorem Parser.emitEvent_scratch (P : Parser) : (P.emitEvent).scratch = P.scratch := rfl
@[simp] theorem Parser.emitEvent_used (P : Parser) : (P.emitEvent).used = P.used := rfl
@[simp] theorem Parser.emitEvent_lastBufferNumber (P : Parser) : (P.emitEvent).lastBufferNumber = P.lastBufferNumber := rfl
@[simp] theorem Parser.emitEvent_bufSeqValid (P : Parser) : (P.emitEvent).bufSeqValid = P.bufSeqValid := rfl
@[simp] theorem Parser.emitEvent_lastPacketNumber (P : Parser) : (P.emitEvent).lastPacketNumber = P.lastPacketNumber := rfl
@[simp] theorem Parser.emitEvent_pktSeqValid (P : Parser) : (P.emitEvent).pktSeqValid = P.pktSeqValid := rfl
@[simp] theorem Parser.emitEvent_counters (P : Parser) : (P.emitEvent).counters = P.counters := rfl
@[simp] theorem Parser.emitEvent_call (P : Parser) : (P.emitEvent).call = P.call := rfl
@[simp] theorem Parser.emitEvent_emitted (P : Parser) : (P.emitEvent).emitted = P.emitted ++ [.eventData P.eventIndex P.eventModules] := rfl

@[simp] theorem Parser.updateModuleCounters_session (P : Parser) : (P.updateModuleCounters).session = P.session := rfl
@[simp] theorem Parser.updateModuleCounters_rs (P : Parser) : (P.updateModuleCounters).rs = P.rs := rfl
@[simp] theorem Parser.updateModuleCounters_eventIndex (P : Parser) : (P.updateModuleCounters).eventIndex = P.eventIndex := rfl
@[simp] theorem Parser.updateModuleCounters_moduleIndex (P : Parser) : (P.updateModuleCounters).moduleIndex = P.moduleIndex := rfl
@[simp] theorem Parser.updateModuleCounters_phase (P : Parser) : (P.updateModuleCounters).phase = P.phase := rfl
@[simp] theorem Parser.updateModuleCounters_stackF (P : Parser) : (P.updateModuleCounters).stackF = P.stackF := rfl
@[simp] theorem Parser.updateModuleCounters_blockF (P : Parser) : (P.updateModuleCounters).blockF = P.blockF := rfl
@[simp] theorem Parser.updateModuleCounters_spans (P : Parser) : (P.updateModuleCounters).spans = P.spans := rfl
@[simp] theorem Parser.updateModuleCounters_scratch (P : Parser) : (P.updateModuleCounters).scratch = P.scratch := rfl
@[simp] theorem Parser.updateModuleCounters_used (P : Parser) : (P.updateModuleCounters).used = P.used := rfl
@[simp] theorem Parser.updateModuleCounters_lastBufferNumber (P : Parser) : (P.updateModuleCounters).lastBufferNumber = P.lastBufferNumber := rfl
@[simp] theorem Parser.updateModuleCounters_bufSeqValid (P : Parser) : (P.updateModuleCounters).bufSeqValid = P.bufSeqValid := rfl
@[simp] theorem Parser.updateModuleCounters_lastPacketNumber (P : Parser) : (P.updateModuleCounters).lastPacketNumber = P.lastPacketNumber := rfl
@[simp] theorem Parser.updateModuleCounters_pktSeqValid (P : Parser) : (P.updateModuleCounters).pktSeqValid = P.pktSeqValid := rfl
@[simp] theorem Parser.updateModuleCounters_counters (P : Parser) : (P.updateModuleCounters).counters = P.counters.recordModules P.eventIndex.toNat 0 P.eventModules := rfl
@[simp] theorem Parser.updateModuleCounters_call (P : Parser) : (P.updateModuleCounters).call = P.call := rfl
@[simp] theorem Parser.updateModuleCounters_emitted (P : Parser) : (P.updateModuleCounters).emitted = P.emitted := rfl

@[simp] theorem Parser.completeEvent_session (P : Parser) : (P.completeEvent).session = P.session := rfl
@[simp] theorem Parser.completeEvent_rs (P : Parser) : (P.completeEvent).rs = P.rs := rfl
@[simp] theorem Parser.completeEvent_eventIndex (P : Parser) : (P.completeEvent).eventIndex = -1 := rfl
@[simp] theorem Parser.completeEvent_moduleIndex (P : Parser) : (P.completeEvent).moduleIndex = -1 := rfl
@[simp] theorem Parser.completeEvent_phase (P : Parser) : (P.completeEvent).phase = .prefixPhase := rfl
@[simp] theorem Parser.completeEvent_stackF (P : Parser) : (P.completeEvent).stackF = Cursor.closed := rfl
@[simp] theorem Parser.completeEvent_blockF (P : Parser) : (P.completeEvent).blockF = Cursor.closed := rfl
@[simp] theorem Parser.completeEvent_spans (P : Parser) : (P.completeEvent).spans = [] := rfl
@[simp] theorem Parser.completeEvent_scratch (P : Parser) : (P.completeEvent).scratch = [] := rfl
@[simp] theorem Parser.completeEvent_used (P : Parser) : (P.completeEvent).used = 0 := rfl
@[simp] theorem Parser.completeEvent_lastBufferNumber (P : Parser) : (P.completeEvent).lastBufferNumber = P.lastBufferNumber := rfl
@[simp] theorem Parser.completeEvent_bufSeqValid (P : Parser) : (P.completeEvent).bufSeqValid = P.bufSeqValid := rfl
@[simp] theorem Parser.completeEvent_lastPacketNumber (P : Parser) : (P.completeEvent).lastPacketNumber = P.lastPacketNumber := rfl
@[simp] theorem Parser.completeEvent_pktSeqValid (P : Parser) : (P.completeEvent).pktSeqValid = P.pktSeqValid := rfl
@[simp] theorem Parser.completeEvent_counters (P : Parser) : (P.completeEvent).counters = P.emitEvent.counters.recordModules P.eventIndex.toNat 0 P.emitEvent.eventModules := rfl
@[simp] theorem Parser.completeEvent_call (P : Parser) : (P.completeEvent).call = P.call := rfl
@[simp] theorem Parser.completeEvent_emitted (P : Parser) : (P.completeEvent).emitted = P.emitted ++ [.eventData P.eventIndex P.eventModules] := rfl

@[simp] theorem Parser.enterModule_session (m : Nat) (P : Parser) : (P.enterModule m).session = P.session := rfl
@[simp] theorem Parser.enterModule_rs (m : Nat) (P : Parser) : (P.enterModule m).rs = P.rs := rfl
@[simp] theorem Parser.enterModule_eventIndex (m : Nat) (P : Parser) : (P.enterModule m).eventIndex = P.eventIndex := rfl
@[simp] theorem Parser.enterModule_moduleIndex (m : Nat) (P : Parser) : (P.enterModule m).moduleIndex = P.moduleIndex := rfl
@[simp] theorem Parser.enterModule_phase (m : Nat) (P : Parser) : (P.enterModule m).phase = .prefixPhase := rfl
@[simp] theorem Parser.enterModule_stackF (m : Nat) (P : Parser) : (P.enterModule m).stackF = P.stackF := rfl
@[simp] theorem Parser.enterModule_blockF (m : Nat) (P : Parser) : (P.enterModule m).blockF = Cursor.closed := rfl
@[simp] theorem Parser.enterModule_spans (m : Nat) (P : Parser) : (P.enterModule m).spans = Sparse.set Span.zero P.spans m ⟨⟨P.used, 0⟩, ⟨P.used, 0⟩, ⟨P.used, 0⟩⟩ := rfl
@[simp] theorem Parser.enterModule_scratch (m : Nat) (P : Parser) : (P.enterModule m).scratch = P.scratch := rfl
@[simp] theorem Parser.enterModule_used (m : Nat) (P : Parser) : (P.enterModule m).used = P.used := rfl
@[simp] theorem Parser.enterModule_lastBufferNumber (m : Nat) (P : Parser) : (P.enterModule m).lastBufferNumber = P.lastBufferNumber := rfl
@[simp] theorem Parser.enterModule_bufSeqValid (m : Nat) (P : Parser) : (P.enterModule m).bufSeqValid = P.bufSeqValid := rfl
@[simp] theorem Parser.enterModule_lastPacketNumber (m : Nat) (P : Parser) : (P.enterModule m).lastPacketNumber = P.lastPacketNumber := rfl
@[simp] theorem Parser.enterModule_pktSeqValid (m : Nat) (P : Parser) : (P.enterModule m).pktSeqValid = P.pktSeqValid := rfl
@[simp] theorem Parser.enterModule_counters (m : Nat) (P : Parser) : (P.enterModule m).counters = P.counters := rfl
@[simp] theorem Parser.enterModule_call (m : Nat) (P : Parser) : (P.enterModule m).call = P.call := rfl
@[simp] theorem Parser.enterModule_emitted (m : Nat) (P : Parser) : (P.enterModule m).emitted = P.emitted := rfl

@[simp] theorem Parser.leaveDynamic_session (P : Parser) : (P.leaveDynamic).session = P.session := rfl
@[simp] theorem Parser.leaveDynamic_rs (P : Parser) : (P.leaveDynamic).rs = P.rs := rfl
@[simp] theorem Parser.leaveDynamic_eventIndex (P : Parser) : (P.leaveDynamic).eventIndex = P.eventIndex := rfl
@[simp] theorem Parser.leaveDynamic_moduleIndex (P : Parser) : (P.leaveDynamic).moduleIndex = P.moduleIndex := rfl
@[simp] theorem Parser.leaveDynamic_phase (P : Parser) : (P.leaveDynamic).phase = .suffixPhase := rfl
@[simp] theorem Parser.leaveDynamic_stackF (P : Parser) : (P.leaveDynamic).stackF = P.stackF := rfl
@[simp] theorem Parser.leaveDynamic_blockF (P : Parser) : (P.leaveDynamic).blockF = P.blockF := rfl
@[simp] theorem Parser.leaveDynamic_scratch (P : Parser) : (P.leaveDynamic).scratch = P.scratch := rfl
@[simp] theorem Parser.leaveDynamic_used (P : Parser) : (P.leaveDynamic).used = P.used := rfl
@[simp] theorem Parser.leaveDynamic_lastBufferNumber (P : Parser) : (P.leaveDynamic).lastBufferNumber = P.lastBufferNumber := rfl
@[simp] theorem Parser.leaveDynamic_bufSeqValid (P : Parser) : (P.leaveDynamic).bufSeqValid = P.bufSeqValid := rfl
@[simp] theorem Parser.leaveDynamic_lastPacketNumber (P : Parser) : (P.leaveDynamic).lastPacketNumber = P.lastPacketNumber := rfl
@[simp] theorem Parser.leaveDynamic_pktSeqValid (P : Parser) : (P.leaveDynamic).pktSeqValid = P.pktSeqValid := rfl
@[simp] theorem Parser.leaveDynamic_counters (P : Parser) : (P.leaveDynamic).counters = P.counters := rfl
@[simp] theorem Parser.leaveDynamic_call (P : Parser) : (P.leaveDynamic).call = P.call := rfl
@[simp] theorem Parser.leaveDynamic_emitted (P : Parser) : (P.leaveDynamic).emitted = P.emitted := rfl

@[simp] theorem Parser.rejectStackFrame_session (o : ParseOutcome) (P : Parser) : (P.rejectStackFrame o).session = P.session := rfl
@[simp] theorem Parser.rejectStackFrame_rs (o : ParseOutcome) (P : Parser) : (P.rejectStackFrame o).rs = P.rs := rfl
@[simp] theorem Parser.rejectStackFrame_eventIndex (o : ParseOutcome) (P : Parser) : (P.rejectStackFrame o).eventIndex = -1 := rfl
@[simp] theorem Parser.rejectStackFrame_moduleIndex (o : ParseOutcome) (P : Parser) : (P.rejectStackFrame o).moduleIndex = -1 := rfl
@[simp] theorem Parser.rejectStackFrame_phase (o : ParseOutcome) (P : Parser) : (P.rejectStackFrame o).phase = .prefixPhase := rfl
@[simp] theorem Parser.rejectStackFrame_stackF (o : ParseOutcome) (P : Parser) : (P.rejectStackFrame o).stackF = Cursor.closed := rfl
@[simp] theorem Parser.rejectStackFrame_blockF (o : ParseOutcome) (P : Parser) : (P.rejectStackFrame o).blockF = Cursor.closed := rfl
@[simp] theorem Parser.rejectStackFrame_spans (o : ParseOutcome) (P : Parser) : (P.rejectStackFrame o).spans = [] := rfl
@[simp] theorem Parser.rejectStackFrame_scratch (o : ParseOutcome) (P : Parser) : (P.rejectStackFrame o).scratch = [] := rfl
@[simp] theorem Parser.rejectStackFrame_used (o : ParseOutcome) (P : Parser) : (P.rejectStackFrame o).used = 0 := rfl
@[simp] theorem Parser.rejectStackFrame_lastBufferNumber (o : ParseOutcome) (P : Parser) : (P.rejectStackFrame o).lastBufferNumber = P.lastBufferNumber := rfl
@[simp] theorem Parser.rejectStackFrame_bufSeqValid (o : ParseOutcome) (P : Parser) : (P.rejectStackFrame o).bufSeqValid = P.bufSeqValid := rfl
@[simp] theorem Parser.rejectStackFrame_lastPacketNumber (o : ParseOutcome) (P : Parser) : (P.rejectStackFrame o).lastPacketNumber = P.lastPacketNumber := rfl
@[simp] theorem Parser.rejectStackFrame_pktSeqValid (o : ParseOutcome) (P : Parser) : (P.rejectStackFrame o).pktSeqValid = P.pktSeqValid := rfl
@[simp] theorem Parser.rejectStackFrame_call (o : ParseOutcome) (P : Parser) : (P.rejectStackFrame o).call = P.call.noteOutcome o := rfl
@[simp] theorem Parser.rejectStackFrame_emitted (o : ParseOutcome) (P : Parser) : (P.rejectStackFrame o).emitted = P.emitted := rfl

@[simp] theorem Parser.dropChain_session (n : Nat) (P : Parser) : (P.dropChain n).session = P.session := rfl
@[simp] theorem Parser.dropChain_rs (n : Nat) (P : Parser) : (P.dropChain n).rs = P.rs := rfl
@[simp] theorem Parser.dropChain_eventIndex (n : Nat) (P : Parser) : (P.dropChain n).eventIndex = -1 := rfl
@[simp] theorem Parser.dropChain_moduleIndex (n : Nat) (P : Parser) : (P.dropChain n).moduleIndex = -1 := rfl
@[simp] theorem Parser.dropChain_phase (n : Nat) (P : Parser) : (P.dropChain n).phase = .prefixPhase := rfl
@[simp] theorem Parser.dropChain_stackF (n : Nat) (P : Parser) : (P.dropChain n).stackF = Cursor.closed := rfl
@[simp] theorem Parser.dropChain_blockF (n : Nat) (P : Parser) : (P.dropChain n).blockF = Cursor.closed := rfl
@[simp] theorem Parser.dropChain_spans (n : Nat) (P : Parser) : (P.dropChain n).spans = [] := rfl
@[simp] theorem Parser.dropChain_scratch (n : Nat) (P : Parser) : (P.dropChain n).scratch = [] := rfl
@[simp] theorem Parser.dropChain_used (n : Nat) (P : Parser) : (P.dropChain n).used = 0 := rfl
@[simp] theorem Parser.dropChain_lastBufferNumber (n : Nat) (P : Parser) : (P.dropChain n).lastBufferNumber = P.lastBufferNumber := rfl
@[simp] theorem Parser.dropChain_bufSeqValid (n : Nat) (P : Parser) : (P.dropChain n).bufSeqValid = P.bufSeqValid := rfl
@[simp] theorem Parser.dropChain_lastPacketNumber (n : Nat) (P : Parser) : (P.dropChain n).lastPacketNumber = P.lastPacketNumber := rfl
@[simp] theorem Parser.dropChain_pktSeqValid (n : Nat) (P : Parser) : (P.dropChain n).pktSeqValid = P.pktSeqValid := rfl
@[simp] theorem Parser.dropChain_call (n : Nat) (P : Parser) : (P.dropChain n).call = CallState.noteOutcome .systemEventDropped { P.call with rp := P.call.rp + n } := rfl
@[simp] theorem Parser.dropChain_emitted (n : Nat) (P : Parser) : (P.dropChain n).emitted = P.emitted := rfl

@[simp] theorem Parser.skipWord_session (P : Parser) : (P.skipWord).session = P.session := rfl
@[simp] theorem Parser.skipWord_rs (P : Parser) : (P.skipWord).rs = P.rs := rfl
@[simp] theorem Parser.skipWord_eventIndex (P : Parser) : (P.skipWord).eventIndex = P.eventIndex := rfl
@[simp] theorem Parser.skipWord_moduleIndex (P : Parser) : (P.skipWord).moduleIndex = P.moduleIndex := rfl
@[simp] theorem Parser.skipWord_phase (P : Parser) : (P.skipWord).phase = P.phase := rfl
@[simp] theorem Parser.skipWord_stackF (P : Parser) : (P.skipWord).stackF = P.stackF := rfl
@[simp] theorem Parser.skipWord_blockF (P : Parser) : (P.skipWord).blockF = P.blockF := rfl
@[simp] theorem Parser.skipWord_spans (P : Parser) : (P.skipWord).spans = P.spans := rfl
@[simp] theorem Parser.skipWord_scratch (P : Parser) : (P.skipWord).scratch = P.scratch := rfl
@[simp] theorem Parser.skipWord_used (P : Parser) : (P.skipWord).used = P.used := rfl
@[simp] theorem Parser.skipWord_lastBufferNumber (P : Parser) : (P.skipWord).lastBufferNumber = P.lastBufferNumber := rfl
@[simp] theorem Parser.skipWord_bufSeqValid (P : Parser) : (P.skipWord).bufSeqValid = P.bufSeqValid := rfl
@[simp] theorem Parser.skipWord_lastPacketNumber (P : Parser) : (P.skipWord).lastPacketNumber = P.lastPacketNumber := rfl
@[simp] theorem Parser.skipWord_pktSeqValid (P : Parser) : (P.skipWord).pktSeqValid = P.pktSeqValid := rfl
@[simp] theorem Parser.skipWord_counters (P : Parser) : (P.skipWord).counters = { P.counters with unusedBytes := P.counters.unusedBytes + bytesOfWords 1 } := rfl
@[simp] theorem Parser.skipWord_call (P : Parser) : (P.skipWord).call = { P.call with unitSkipped := true, rp := P.call.rp + 1 } := rfl
@[simp] theorem Parser.skipWord_emitted (P : Parser) : (P.skipWord).emitted = P.emitted := rfl

/-! ## The correlator -/

@[simp] theorem Engine.push_slotSuper (ws : List Word) (T : Engine) : (T.push ws).slotSuper = T.slotSuper := rfl
@[simp] theorem Engine.push_slotStack (ws : List Word) (T : Engine) : (T.push ws).slotStack = T.slotStack := rfl
@[simp] theorem Engine.push_fifo (ws : List Word) (T : Engine) : (T.push ws).fifo = T.fifo ++ ws := rfl
@[simp] theorem Engine.push_collecting (ws : List Word) (T : Engine) : (T.push ws).collecting = T.collecting := rfl
@[simp] theorem Engine.push_chainStack (ws : List Word) (T : Engine) : (T.push ws).chainStack = T.chainStack := rfl
@[simp] theorem Engine.push_chainWords (ws : List Word) (T : Engine) : (T.push ws).chainWords = T.chainWords := rfl
@[simp] theorem Engine.push_chainOverflow (ws : List Word) (T : Engine) : (T.push ws).chainOverflow = T.chainOverflow := rfl
@[simp] theorem Engine.push_chainBroken (ws : List Word) (T : Engine) : (T.push ws).chainBroken = T.chainBroken := rfl
@[simp] theorem Engine.push_running (ws : List Word) (T : Engine) : (T.push ws).running = T.running := rfl
@[simp] theorem Engine.push_stopReq (ws : List Word) (T : Engine) : (T.push ws).stopReq = T.stopReq := rfl
@[simp] theorem Engine.push_counters (ws : List Word) (T : Engine) : (T.push ws).counters = T.counters := rfl
@[simp] theorem Engine.push_stackErrors (ws : List Word) (T : Engine) : (T.push ws).stackErrors = T.stackErrors := rfl

@[simp] theorem Engine.pop_slotSuper (n : Nat) (T : Engine) : (T.pop n).slotSuper = T.slotSuper := rfl
@[simp] theorem Engine.pop_slotStack (n : Nat) (T : Engine) : (T.pop n).slotStack = T.slotStack := rfl
@[simp] theorem Engine.pop_fifo (n : Nat) (T : Engine) : (T.pop n).fifo = T.fifo.drop n := rfl
@[simp] theorem Engine.pop_collecting (n : Nat) (T : Engine) : (T.pop n).collecting = T.collecting := rfl
@[simp] theorem Engine.pop_chainStack (n : Nat) (T : Engine) : (T.pop n).chainStack = T.chainStack := rfl
@[simp] theorem Engine.pop_chainWords (n : Nat) (T : Engine) : (T.pop n).chainWords = T.chainWords := rfl
@[simp] theorem Engine.pop_chainOverflow (n : Nat) (T : Engine) : (T.pop n).chainOverflow = T.chainOverflow := rfl
@[simp] theorem Engine.pop_chainBroken (n : Nat) (T : Engine) : (T.pop n).chainBroken = T.chainBroken := rfl
@[simp] theorem Engine.pop_running (n : Nat) (T : Engine) : (T.pop n).running = T.running := rfl
@[simp] theorem Engine.pop_stopReq (n : Nat) (T : Engine) : (T.pop n).stopReq = T.stopReq := rfl
@[simp] theorem Engine.pop_counters (n : Nat) (T : Engine) : (T.pop n).counters = T.counters := rfl
@[simp] theorem Engine.pop_stackErrors (n : Nat) (T : Engine) : (T.pop n).stackErrors = T.stackErrors := rfl

@[simp] theorem Engine.fulfilSuper_slotSuper (r : TxResult) (T : Engine) : (T.fulfilSuper r).slotSuper = .fulfilled r := rfl
@[simp] theorem Engine.fulfilSuper_slotStack (r : TxResult) (T : Engine) : (T.fulfilSuper r).slotStack = T.slotStack := rfl
@[simp] theorem Engine.fulfilSuper_fifo (r : TxResult) (T : Engine) : (T.fulfilSuper r).fifo = T.fifo := rfl
@[simp] theorem Engine.fulfilSuper_collecting (r : TxResult) (T : Engine) : (T.fulfilSuper r).collecting = T.collecting := rfl
@[simp] theorem Engine.fulfilSuper_chainStack (r : TxResult) (T : Engine) : (T.fulfilSuper r).chainStack = T.chainStack := rfl
@[simp] theorem Engine.fulfilSuper_chainWords (r : TxResult) (T : Engine) : (T.fulfilSuper r).chainWords = T.chainWords := rfl
@[simp] theorem Engine.fulfilSuper_chainOverflow (r : TxResult) (T : Engine) : (T.fulfilSuper r).chainOverflow = T.chainOverflow := rfl
@[simp] theorem Engine.fulfilSuper_chainBroken (r : TxResult) (T : Engine) : (T.fulfilSuper r).chainBroken = T.chainBroken := rfl
@[simp] theorem Engine.fulfilSuper_running (r : TxResult) (T : Engine) : (T.fulfilSuper r).running = T.running := rfl
@[simp] theorem Engine.fulfilSuper_stopReq (r : TxResult) (T : Engine) : (T.fulfilSuper r).stopReq = T.stopReq := rfl
@[simp] theorem Engine.fulfilSuper_counters (r : TxResult) (T : Engine) : (T.fulfilSuper r).counters = T.counters := rfl
@[simp] theorem Engine.fulfilSuper_stackErrors (r : TxResult) (T : Engine) : (T.fulfilSuper r).stackErrors = T.stackErrors := rfl

@[simp] theorem Engine.fulfilStack_slotSuper (r : TxResult) (T : Engine) : (T.fulfilStack r).slotSuper = T.slotSuper := rfl
@[simp] theorem Engine.fulfilStack_slotStack (r : TxResult) (T : Engine) : (T.fulfilStack r).slotStack = .fulfilled r := rfl
@[simp] theorem Engine.fulfilStack_fifo (r : TxResult) (T : Engine) : (T.fulfilStack r).fifo = T.fifo := rfl
@[simp] theorem Engine.fulfilStack_collecting (r : TxResult) (T : Engine) : (T.fulfilStack r).collecting = T.collecting := rfl
@[simp] theorem Engine.fulfilStack_chainStack (r : TxResult) (T : Engine) : (T.fulfilStack r).chainStack = T.chainStack := rfl
@[simp] theorem Engine.fulfilStack_chainWords (r : TxResult) (T : Engine) : (T.fulfilStack r).chainWords = T.chainWords := rfl
@[simp] theorem Engine.fulfilStack_chainOverflow (r : TxResult) (T : Engine) : (T.fulfilStack r).chainOverflow = T.chainOverflow := rfl
@[simp] theorem Engine.fulfilStack_chainBroken (r : TxResult) (T : Engine) : (T.fulfilStack r).chainBroken = T.chainBroken := rfl
@[simp] theorem Engine.fulfilStack_running (r : TxResult) (T : Engine) : (T.fulfilStack r).running = T.running := rfl
@[simp] theorem Engine.fulfilStack_stopReq (r : TxResult) (T : Engine) : (T.fulfilStack r).stopReq = T.stopReq := rfl
@[simp] theorem Engine.fulfilStack_counters (r : TxResult) (T : Engine) : (T.fulfilStack r).counters = T.counters := rfl
@[simp] theorem Engine.fulfilStack_stackErrors (r : TxResult) (T : Engine) : (T.fulfilStack r).stackErrors = T.stackErrors := rfl

@[simp] theorem Engine.clearChain_slotSuper (T : Engine) : (T.clearChain).slotSuper = T.slotSuper := rfl
@[simp] theorem Engine.clearChain_slotStack (T : Engine) : (T.clearChain).slotStack = T.slotStack := rfl
@[simp] theorem Engine.clearChain_fifo (T : Engine) : (T.clearChain).fifo = T.fifo := rfl
@[simp] theorem Engine.clearChain_collecting (T : Engine) : (T.clearChain).collecting = T.collecting := rfl
@[simp] theorem Engine.clearChain_chainStack (T : Engine) : (T.clearChain).chainStack = T.chainStack := rfl
@[simp] theorem Engine.clearChain_chainWords (T : Engine) : (T.clearChain).chainWords = [] := rfl
@[simp] theorem Engine.clearChain_chainOverflow (T : Engine) : (T.clearChain).chainOverflow = false := rfl
@[simp] theorem Engine.clearChain_chainBroken (T : Engine) : (T.clearChain).chainBroken = false := rfl
@[simp] theorem Engine.clearChain_running (T : Engine) : (T.clearChain).running = T.running := rfl
@[simp] theorem Engine.clearChain_stopReq (T : Engine) : (T.clearChain).stopReq = T.stopReq := rfl
@[simp] theorem Engine.clearChain_counters (T : Engine) : (T.clearChain).counters = T.counters := rfl
@[simp] theorem Engine.clearChain_stackErrors (T : Engine) : (T.clearChain).stackErrors = T.stackErrors := rfl

@[simp] theorem Engine.openChain_slotSuper (hdr : Word) (T : Engine) : (T.openChain hdr).slotSuper = T.slotSuper := rfl
@[simp] theorem Engine.openChain_slotStack (hdr : Word) (T : Engine) : (T.openChain hdr).slotStack = T.slotStack := rfl
@[simp] theorem Engine.openChain_fifo (hdr : Word) (T : Engine) : (T.openChain hdr).fifo = T.fifo := rfl
@[simp] theorem Engine.openChain_collecting (hdr : Word) (T : Engine) : (T.openChain hdr).collecting = T.collecting := rfl
@[simp] theorem Engine.openChain_chainStack (hdr : Word) (T : Engine) : (T.openChain hdr).chainStack = stackNumOf hdr := rfl
@[simp] theorem Engine.openChain_chainWords (hdr : Word) (T : Engine) : (T.openChain hdr).chainWords = [] := rfl
@[simp] theorem Engine.openChain_chainOverflow (hdr : Word) (T : Engine) : (T.openChain hdr).chainOverflow = false := rfl
@[simp] theorem Engine.openChain_chainBroken (hdr : Word) (T : Engine) : (T.openChain hdr).chainBroken = false := rfl
@[simp] theorem Engine.openChain_running (hdr : Word) (T : Engine) : (T.openChain hdr).running = T.running := rfl
@[simp] theorem Engine.openChain_stopReq (hdr : Word) (T : Engine) : (T.openChain hdr).stopReq = T.stopReq := rfl
@[simp] theorem Engine.openChain_counters (hdr : Word) (T : Engine) : (T.openChain hdr).counters = T.counters := rfl
@[simp] theorem Engine.openChain_stackErrors (hdr : Word) (T : Engine) : (T.openChain hdr).stackErrors = T.stackErrors := rfl

@[simp] theorem Engine.shutdown_slotSuper (T : Engine) : (T.shutdown).slotSuper = T.slotSuper.disconnect := rfl
@[simp] theorem Engine.shutdown_slotStack (T : Engine) : (T.shutdown).slotStack = T.slotStack.disconnect := rfl
@[simp] theorem Engine.shutdown_fifo (T : Engine) : (T.shutdown).fifo = [] := rfl
@[simp] theorem Engine.shutdown_collecting (T : Engine) : (T.shutdown).collecting = false := rfl
@[simp] theorem Engine.shutdown_chainStack (T : Engine) : (T.shutdown).chainStack = T.chainStack := rfl
@[simp] theorem Engine.shutdown_chainWords (T : Engine) : (T.shutdown).chainWords = [] := rfl
@[simp] theorem Engine.shutdown_chainOverflow (T : Engine) : (T.shutdown).chainOverflow = false := rfl
@[simp] theorem Engine.shutdown_chainBroken (T : Engine) : (T.shutdown).chainBroken = false := rfl
@[simp] theorem Engine.shutdown_running (T : Engine) : (T.shutdown).running = false := rfl
@[simp] theorem Engine.shutdown_stopReq (T : Engine) : (T.shutdown).stopReq = T.stopReq := rfl
@[simp] theorem Engine.shutdown_counters (T : Engine) : (T.shutdown).counters = T.counters := rfl
@[simp] theorem Engine.shutdown_stackErrors (T : Engine) : (T.shutdown).stackErrors = T.stackErrors := rfl

@[simp] theorem Engine.countSkipped_slotSuper (T : Engine) : (T.countSkipped).slotSuper = T.slotSuper := rfl
@[simp] theorem Engine.countSkipped_slotStack (T : Engine) : (T.countSkipped).slotStack = T.slotStack := rfl
@[simp] theorem Engine.countSkipped_fifo (T : Engine) : (T.countSkipped).fifo = T.fifo := rfl
@[simp] theorem Engine.countSkipped_collecting (T : Engine) : (T.countSkipped).collecting = T.collecting := rfl
@[simp] theorem Engine.countSkipped_chainStack (T : Engine) : (T.countSkipped).chainStack = T.chainStack := rfl
@[simp] theorem Engine.countSkipped_chainWords (T : Engine) : (T.countSkipped).chainWords = T.chainWords := rfl
@[simp] theorem Engine.countSkipped_chainOverflow (T : Engine) : (T.countSkipped).chainOverflow = T.chainOverflow := rfl
@[simp] theorem Engine.countSkipped_chainBroken (T : Engine) : (T.countSkipped).chainBroken = T.chainBroken := rfl
@[simp] theorem Engine.countSkipped_running (T : Engine) : (T.countSkipped).running = T.running := rfl
@[simp] theorem Engine.countSkipped_stopReq (T : Engine) : (T.countSkipped).stopReq = T.stopReq := rfl
@[simp] theorem Engine.countSkipped_counters (T : Engine) : (T.countSkipped).counters = { T.counters with skippedWords := T.counters.skippedWords + 1 } := rfl
@[simp] theorem Engine.countSkipped_stackErrors (T : Engine) : (T.countSkipped).stackErrors = T.stackErrors := rfl

@[simp] theorem Engine.countTimeout_slotSuper (T : Engine) : (T.countTimeout).slotSuper = T.slotSuper := rfl
@[simp] theorem Engine.countTimeout_slotStack (T : Engine) : (T.countTimeout).slotStack = T.slotStack := rfl
@[simp] theorem Engine.countTimeout_fifo (T : Engine) : (T.countTimeout).fifo = T.fifo := rfl
@[simp] theorem Engine.countTimeout_collecting (T : Engine) : (T.countTimeout).collecting = T.collecting := rfl
@[simp] theorem Engine.countTimeout_chainStack (T : Engine) : (T.countTimeout).chainStack = T.chainStack := rfl
@[simp] theorem Engine.countTimeout_chainWords (T : Engine) : (T.countTimeout).chainWords = T.chainWords := rfl
@[simp] theorem Engine.countTimeout_chainOverflow (T : Engine) : (T.countTimeout).chainOverflow = T.chainOverflow := rfl
@[simp] theorem Engine.countTimeout_chainBroken (T : Engine) : (T.countTimeout).chainBroken = T.chainBroken := rfl
@[simp] theorem Engine.countTimeout_running (T : Engine) : (T.countTimeout).running = T.running := rfl
@[simp] theorem Engine.countTimeout_stopReq (T : Engine) : (T.countTimeout).stopReq = T.stopReq := rfl
@[simp] theorem Engine.countTimeout_counters (T : Engine) : (T.countTimeout).counters = { T.counters with readTimeouts := T.counters.readTimeouts + 1 } := rfl
@[simp] theorem Engine.countTimeout_stackErrors (T : Engine) : (T.countTimeout).stackErrors = T.stackErrors := rfl

@[simp] theorem Engine.countSuperMismatch_slotSuper (T : Engine) : (T.countSuperMismatch).slotSuper = T.slotSuper := rfl
@[simp] theorem Engine.countSuperMismatch_slotStack (T : Engine) : (T.countSuperMismatch).slotStack = T.slotStack := rfl
@[simp] theorem Engine.countSuperMismatch_fifo (T : Engine) : (T.countSuperMismatch).fifo = T.fifo := rfl
@[simp] theorem Engine.countSuperMismatch_collecting (T : Engine) : (T.countSuperMismatch).collecting = T.collecting := rfl
@[simp] theorem Engine.countSuperMismatch_chainStack (T : Engine) : (T.countSuperMismatch).chainStack = T.chainStack := rfl
@[simp] theorem Engine.countSuperMismatch_chainWords (T : Engine) : (T.countSuperMismatch).chainWords = T.chainWords := rfl
@[simp] theorem Engine.countSuperMismatch_chainOverflow (T : Engine) : (T.countSuperMismatch).chainOverflow = T.chainOverflow := rfl
@[simp] theorem Engine.countSuperMismatch_chainBroken (T : Engine) : (T.countSuperMismatch).chainBroken = T.chainBroken := rfl
@[simp] theorem Engine.countSuperMismatch_running (T : Engine) : (T.countSuperMismatch).running = T.running := rfl
@[simp] theorem Engine.countSuperMismatch_stopReq (T : Engine) : (T.countSuperMismatch).stopReq = T.stopReq := rfl
@[simp] theorem Engine.countSuperMismatch_counters (T : Engine) : (T.countSuperMismatch).counters = { T.counters with superRefMismatches := T.counters.superRefMismatches + 1 } := rfl
@[simp] theorem Engine.countSuperMismatch_stackErrors (T : Engine) : (T.countSuperMismatch).stackErrors = T.stackErrors := rfl

@[simp] theorem Engine.countStackMismatch_slotSuper (T : Engine) : (T.countStackMismatch).slotSuper = T.slotSuper := rfl
@[simp] theorem Engine.countStackMismatch_slotStack (T : Engine) : (T.countStackMismatch).slotStack = T.slotStack := rfl
@[simp] theorem Engine.countStackMismatch_fifo (T : Engine) : (T.countStackMismatch).fifo = T.fifo := rfl
@[simp] theorem Engine.countStackMismatch_collecting (T : Engine) : (T.countStackMismatch).collecting = T.collecting := rfl
@[simp] theorem Engine.countStackMismatch_chainStack (T : Engine) : (T.countStackMismatch).chainStack = T.chainStack := rfl
@[simp] theorem Engine.countStackMismatch_chainWords (T : Engine) : (T.countStackMismatch).chainWords = T.chainWords := rfl
@[simp] theorem Engine.countStackMismatch_chainOverflow (T : Engine) : (T.countStackMismatch).chainOverflow = T.chainOverflow := rfl
@[simp] theorem Engine.countStackMismatch_chainBroken (T : Engine) : (T.countStackMismatch).chainBroken = T.chainBroken := rfl
@[simp] theorem Engine.countStackMismatch_running (T : Engine) : (T.countStackMismatch).running = T.running := rfl
@[simp] theorem Engine.countStackMismatch_stopReq (T : Engine) : (T.countStackMismatch).stopReq = T.stopReq := rfl
@[simp] theorem Engine.countStackMismatch_counters (T : Engine) : (T.countStackMismatch).counters = { T.counters with stackRefMismatches := T.counters.stackRefMismatches + 1 } := rfl
@[simp] theorem Engine.countStackMismatch_stackErrors (T : Engine) : (T.countStackMismatch).stackErrors = T.stackErrors := rfl

@[simp] theorem Engine.countUnexpectedSuper_slotSuper (T : Engine) : (T.countUnexpectedSuper).slotSuper = T.slotSuper := rfl
@[simp] theorem Engine.countUnexpectedSuper_slotStack (T : Engine) : (T.countUnexpectedSuper).slotStack = T.slotStack := rfl
@[simp] theorem Engine.countUnexpectedSuper_fifo (T : Engine) : (T.countUnexpectedSuper).fifo = T.fifo := rfl
@[simp] theorem Engine.countUnexpectedSuper_collecting (T : Engine) : (T.countUnexpectedSuper).collecting = T.collecting := rfl
@[simp] theorem Engine.countUnexpectedSuper_chainStack (T : Engine) : (T.countUnexpectedSuper).chainStack = T.chainStack := rfl
@[simp] theorem Engine.countUnexpectedSuper_chainWords (T : Engine) : (T.countUnexpectedSuper).chainWords = T.chainWords := rfl
@[simp] theorem Engine.countUnexpectedSuper_chainOverflow (T : Engine) : (T.countUnexpectedSuper).chainOverflow = T.chainOverflow := rfl
@[simp] theorem Engine.countUnexpectedSuper_chainBroken (T : Engine) : (T.countUnexpectedSuper).chainBroken = T.chainBroken := rfl
@[simp] theorem Engine.countUnexpectedSuper_running (T : Engine) : (T.countUnexpectedSuper).running = T.running := rfl
@[simp] theorem Engine.countUnexpectedSuper_stopReq (T : Engine) : (T.countUnexpectedSuper).stopReq = T.stopReq := rfl
@[simp] theorem Engine.countUnexpectedSuper_counters (T : Engine) : (T.countUnexpectedSuper).counters = { T.counters with unexpectedSuperFrames := T.counters.unexpectedSuperFrames + 1 } := rfl
@[simp] theorem Engine.countUnexpectedSuper_stackErrors (T : Engine) : (T.countUnexpectedSuper).stackErrors = T.stackErrors := rfl

@[simp] theorem Engine.countUnexpectedStack_slotSuper (T : Engine) : (T.countUnexpectedStack).slotSuper = T.slotSuper := rfl
@[simp] theorem Engine.countUnexpectedStack_slotStack (T : Engine) : (T.countUnexpectedStack).slotStack = T.slotStack := rfl
@[simp] theorem Engine.countUnexpectedStack_fifo (T : Engine) : (T.countUnexpectedStack).fifo = T.fifo := rfl
@[simp] theorem Engine.countUnexpectedStack_collecting (T : Engine) : (T.countUnexpectedStack).collecting = T.collecting := rfl
@[simp] theorem Engine.countUnexpectedStack_chainStack (T : Engine) : (T.countUnexpectedStack).chainStack = T.chainStack := rfl
@[simp] theorem Engine.countUnexpectedStack_chainWords (T : Engine) : (T.countUnexpectedStack).chainWords = T.chainWords := rfl
@[simp] theorem Engine.countUnexpectedStack_chainOverflow (T : Engine) : (T.countUnexpectedStack).chainOverflow = T.chainOverflow := rfl
@[simp] theorem Engine.countUnexpectedStack_chainBroken (T : Engine) : (T.countUnexpectedStack).chainBroken = T.chainBroken := rfl
@[simp] theorem Engine.countUnexpectedStack_running (T : Engine) : (T.countUnexpectedStack).running = T.running := rfl
@[simp] theorem Engine.countUnexpectedStack_stopReq (T : Engine) : (T.countUnexpectedStack).stopReq = T.stopReq := rfl
@[simp] theorem Engine.countUnexpectedStack_counters (T : Engine) : (T.countUnexpectedStack).counters = { T.counters with unexpectedStackFrames := T.counters.unexpectedStackFrames + 1 } := rfl
@[simp] theorem Engine.countUnexpectedStack_stackErrors (T : Engine) : (T.countUnexpectedStack).stackErrors = T.stackErrors := rfl

@[simp] theorem Engine.countChainBroken_slotSuper (T : Engine) : (T.countChainBroken).slotSuper = T.slotSuper := rfl
@[simp] theorem Engine.countChainBroken_slotStack (T : Engine) : (T.countChainBroken).slotStack = T.slotStack := rfl
@[simp] theorem Engine.countChainBroken_fifo (T : Engine) : (T.countChainBroken).fifo = T.fifo := rfl
@[simp] theorem Engine.countChainBroken_collecting (T : Engine) : (T.countChainBroken).collecting = T.collecting := rfl
@[simp] theorem Engine.countChainBroken_chainStack (T : Engine) : (T.countChainBroken).chainStack = T.chainStack := rfl
@[simp] theorem Engine.countChainBroken_chainWords (T : Engine) : (T.countChainBroken).chainWords = T.chainWords := rfl
@[simp] theorem Engine.countChainBroken_chainOverflow (T : Engine) : (T.countChainBroken).chainOverflow = T.chainOverflow := rfl
@[simp] theorem Engine.countChainBroken_chainBroken (T : Engine) : (T.countChainBroken).chainBroken = T.chainBroken := rfl
@[simp] theorem Engine.countChainBroken_running (T : Engine) : (T.countChainBroken).running = T.running := rfl
@[simp] theorem Engine.countChainBroken_stopReq (T : Engine) : (T.countChainBroken).stopReq = T.stopReq := rfl
@[simp] theorem Engine.countChainBroken_counters (T : Engine) : (T.countChainBroken).counters = { T.counters with stackChainBroken := T.counters.stackChainBroken + 1 } := rfl
@[simp] theorem Engine.countChainBroken_stackErrors (T : Engine) : (T.countChainBroken).stackErrors = T.stackErrors := rfl

end Sys2Proof.Machine
end

