-- ==== Sys2Proof/Laws/Reassembly.lean ====
section
/-! SUPPORT. What the shared operations of the reassembly loop can do: what they leave alone, and how far each
iteration takes the read position (R240, R263). -/

namespace Sys2Proof.Machine

/-! ## What the loop leaves alone -/

/-- What a step of the loop never writes: the session and its table, the two sequence trackers, the loss
counters, the bytes handed over, the unit and its place in the buffer; and emissions are only appended. -/
structure Parser.Keeps (P Q : Parser) : Prop where
  session : Q.session = P.session
  rs : Q.rs = P.rs
  lastBufferNumber : Q.lastBufferNumber = P.lastBufferNumber
  bufSeqValid : Q.bufSeqValid = P.bufSeqValid
  lastPacketNumber : Q.lastPacketNumber = P.lastPacketNumber
  pktSeqValid : Q.pktSeqValid = P.pktSeqValid
  bufferLoss : Q.counters.bufferLoss = P.counters.bufferLoss
  ethPacketLoss : Q.counters.ethPacketLoss = P.counters.ethPacketLoss
  bytesProcessed : Q.counters.bytesProcessed = P.counters.bytesProcessed
  stage : Q.call.stage = P.call.stage
  unit : Q.call.unit = P.call.unit
  emitted : ∃ es, Q.emitted = P.emitted ++ es

namespace Parser.Keeps

theorem refl (P : Parser) : P.Keeps P :=
  ⟨rfl, rfl, rfl, rfl, rfl, rfl, rfl, rfl, rfl, rfl, rfl, [], by simp⟩

theorem trans {P Q R : Parser} (h : P.Keeps Q) (g : Q.Keeps R) : P.Keeps R := by
  obtain ⟨es, he⟩ := h.emitted
  obtain ⟨fs, hf⟩ := g.emitted
  exact ⟨g.session.trans h.session, g.rs.trans h.rs, g.lastBufferNumber.trans h.lastBufferNumber,
    g.bufSeqValid.trans h.bufSeqValid, g.lastPacketNumber.trans h.lastPacketNumber,
    g.pktSeqValid.trans h.pktSeqValid, g.bufferLoss.trans h.bufferLoss,
    g.ethPacketLoss.trans h.ethPacketLoss, g.bytesProcessed.trans h.bytesProcessed,
    g.stage.trans h.stage, g.unit.trans h.unit, es ++ fs, by rw [hf, he, List.append_assoc]⟩

end Parser.Keeps

@[simp] theorem ParserCounters.recordModules_others (e : Nat) (c : ParserCounters) (m : Nat) (ds : List ModuleData) :
    (c.recordModules e m ds).bufferLoss = c.bufferLoss ∧
    (c.recordModules e m ds).ethPacketLoss = c.ethPacketLoss ∧
    (c.recordModules e m ds).bytesProcessed = c.bytesProcessed ∧
    (c.recordModules e m ds).unusedBytes = c.unusedBytes ∧
    (c.recordModules e m ds).exceptionCount = c.exceptionCount ∧
    (c.recordModules e m ds).parseResults = c.parseResults := by
  induction ds generalizing c m with
  | nil => exact ⟨rfl, rfl, rfl, rfl, rfl, rfl⟩
  | cons d ds ih => simp only [ParserCounters.recordModules]; simp only [ih]; exact ⟨rfl, rfl, rfl, rfl, rfl, rfl⟩

section
variable (P : Parser)

theorem Parser.keeps_advance (n : Nat) : P.Keeps (P.advance n) := by constructor <;> simp
theorem Parser.keeps_markTook : P.Keeps P.markTook := by constructor <;> simp
theorem Parser.keeps_markSkipped : P.Keeps P.markSkipped := by constructor <;> simp
theorem Parser.keeps_clearRaised : P.Keeps P.clearRaised := by constructor <;> simp
theorem Parser.keeps_addUnused (n : Nat) : P.Keeps (P.addUnused n) := by constructor <;> simp
theorem Parser.keeps_bumpResult (o : ParseOutcome) : P.Keeps (P.bumpResult o) := by constructor <;> simp
theorem Parser.keeps_emit (e : Emission) : P.Keeps (P.emit e) := by constructor <;> simp
theorem Parser.keeps_clearEventState : P.Keeps P.clearEventState := by constructor <;> simp
theorem Parser.keeps_raise (o : ParseOutcome) : P.Keeps (P.raise o) := by
  constructor <;> simp [CallState.noteOutcome]
theorem Parser.keeps_countException (o : ParseOutcome) : P.Keeps (P.countException o) := by
  unfold Parser.countException; split
  · constructor <;> simp
  · exact .refl P
theorem Parser.keeps_abandonUnit : P.Keeps P.abandonUnit := by constructor <;> simp
theorem Parser.keeps_fault (o : ParseOutcome) : P.Keeps (P.fault o) :=
  ((P.keeps_countException o).trans (Parser.keeps_raise _ o)).trans (Parser.keeps_abandonUnit _)
theorem Parser.keeps_setSpan (m : Nat) (v : Span) : P.Keeps (P.setSpan m v) := by constructor <;> simp
theorem Parser.keeps_consume : P.Keeps P.consume := by constructor <;> simp
theorem Parser.keeps_enterModule (m : Nat) : P.Keeps (P.enterModule m) := by constructor <;> simp
theorem Parser.keeps_leavePrefix (b : Bool) : P.Keeps (P.leavePrefix b) := by
  unfold Parser.leavePrefix; cases b <;> constructor <;> simp
theorem Parser.keeps_leaveDynamic : P.Keeps P.leaveDynamic := by constructor <;> simp
theorem Parser.keeps_updateModuleCounters : P.Keeps P.updateModuleCounters := by constructor <;> simp
theorem Parser.keeps_completeEvent : P.Keeps P.completeEvent :=
  ((P.keeps_emit _).trans (Parser.keeps_updateModuleCounters _)).trans (Parser.keeps_clearEventState _)

theorem Parser.keeps_settleLoop (fuel : Nat) : P.Keeps (P.settleLoop fuel) := by
  induction fuel generalizing P with
  | zero => exact .refl P
  | succ fuel ih =>
    unfold Parser.settleLoop
    split
    · exact .refl P
    · dsimp only
      split
      · split
        · exact (P.keeps_leavePrefix _).trans (ih _)
        · exact .refl P
      · split
        · exact P.keeps_leaveDynamic.trans (ih _)
        · exact .refl P
      · split
        · have hs : P.Keeps { P with moduleIndex := P.moduleIndex + 1 } := by constructor <;> simp
          split
          · exact hs.trans (Parser.keeps_completeEvent _)
          · exact (hs.trans (Parser.keeps_enterModule _ _)).trans (ih _)
        · exact .refl P

theorem Parser.keeps_settle : P.Keeps P.settle := P.keeps_settleLoop _

theorem Parser.keeps_startEvent (ev : Int) (w : Word) : P.Keeps (P.startEvent ev w) :=
  (Parser.Keeps.trans (by constructor <;> simp) (Parser.keeps_enterModule _ 0)).trans (Parser.keeps_settle _)

theorem Parser.keeps_rejectStackFrame (o : ParseOutcome) : P.Keeps (P.rejectStackFrame o) :=
  (P.keeps_addUnused 1).trans (Parser.keeps_raise _ o)

theorem Parser.keeps_idleStackFrame (w : Word) : P.Keeps (P.idleStackFrame w) := by
  have h : P.Keeps (P.advance 1).markTook := (P.keeps_advance 1).trans (Parser.keeps_markTook _)
  unfold Parser.idleStackFrame
  dsimp only
  split
  · exact h.trans (Parser.keeps_bumpResult _ _)
  · split
    · exact h.trans (Parser.keeps_rejectStackFrame _ _)
    · split
      · exact h.trans (Parser.keeps_rejectStackFrame _ _)
      · split
        · exact h.trans (Parser.keeps_rejectStackFrame _ _)
        · exact h.trans (Parser.keeps_startEvent _ _ _)

theorem Parser.keeps_skipFrame (w : Word) : P.Keeps (P.skipFrame w) :=
  (P.keeps_addUnused _).trans ((Parser.keeps_advance _ _).trans (Parser.keeps_markSkipped _))

theorem Parser.keeps_skipWord : P.Keeps P.skipWord :=
  (P.keeps_addUnused 1).trans ((Parser.keeps_advance _ 1).trans (Parser.keeps_markSkipped _))

theorem Parser.keeps_dropChain (n : Nat) : P.Keeps (P.dropChain n) :=
  ((P.keeps_addUnused n).trans (Parser.keeps_advance _ n)).trans (Parser.keeps_raise _ _)

theorem Parser.keeps_sysEventChain (w : Word) : P.Keeps (P.sysEventChain w) := by
  unfold Parser.sysEventChain
  dsimp only
  split
  · exact (P.keeps_emit _).trans ((Parser.keeps_advance _ _).trans (Parser.keeps_markTook _))
  · exact P.keeps_dropChain _

theorem Parser.keeps_idleStep (p : Params) (w : Word) : P.Keeps (P.idleStep p w) := by
  unfold Parser.idleStep
  split
  · exact P.keeps_sysEventChain w
  · exact P.keeps_idleStackFrame w
  · exact P.keeps_skipFrame w
  · exact P.keeps_skipFrame w
  · exact P.keeps_skipWord
  · exact P.keeps_skipWord
  · exact P.keeps_skipWord

theorem Parser.keeps_copy (p : Params) (ph : Phase) (w : Word) : P.Keeps (P.copy p ph w) := by
  unfold Parser.copy
  split
  · exact P.keeps_fault _
  · exact Parser.Keeps.trans (by constructor <;> simp) (Parser.keeps_consume _)

theorem Parser.keeps_blockHeader (w : Word) : P.Keeps (P.blockHeader w) := by
  unfold Parser.blockHeader
  split
  · exact P.keeps_consume.trans (by constructor <;> simp)
  · exact P.keeps_raise _

theorem Parser.keeps_dynData (p : Params) (w : Word) : P.Keeps (P.dynData p w) := by
  unfold Parser.dynData
  dsimp only
  split
  · exact (P.keeps_copy p .dynamicPhase w).trans (by constructor <;> simp)
  · exact P.keeps_copy p _ w

theorem Parser.keeps_frameWord (p : Params) (w : Word) : P.Keeps (P.frameWord p w) := by
  unfold Parser.frameWord
  split
  · exact P.keeps_copy p _ w
  · split
    · exact P.keeps_blockHeader w
    · exact P.keeps_dynData p w
  · exact P.keeps_copy p _ w

theorem Parser.keeps_frameStep (p : Params) (w : Word) : P.Keeps (P.frameStep p w) := by
  unfold Parser.frameStep
  dsimp only
  split
  · exact (P.keeps_frameWord p w).trans (Parser.keeps_settle _)
  · exact P.keeps_frameWord p w

theorem Parser.keeps_awaitStep (w : Word) : P.Keeps (P.awaitStep w) := by
  unfold Parser.awaitStep
  split
  · exact P.keeps_sysEventChain w
  · split
    · split
      · exact Parser.Keeps.trans (by constructor <;> simp) (Parser.keeps_advance _ 1)
      · exact P.keeps_raise _
    · exact P.keeps_raise _

theorem Parser.keeps_dispatch (p : Params) (w : Word) : P.Keeps (P.dispatch p w) := by
  unfold Parser.dispatch
  split
  · exact P.keeps_idleStep p w
  · split
    · exact P.keeps_awaitStep w
    · exact P.keeps_frameStep p w

/-- An iteration of the loop keeps what `Parser.Keeps` lists. -/
theorem Parser.keeps_iteration (p : Params) (w : Word) : P.Keeps (P.iteration p w) := by
  unfold Parser.iteration
  dsimp only
  split
  · exact (P.keeps_clearRaised.trans (Parser.keeps_dispatch _ p w)).trans (Parser.keeps_fault _ _)
  · exact P.keeps_clearRaised.trans (Parser.keeps_dispatch _ p w)

theorem Parser.keeps_runUnitLoop (p : Params) (fuel : Nat) : P.Keeps (Parser.runUnitLoop p fuel P) := by
  induction fuel generalizing P with
  | zero => exact .refl P
  | succ fuel ih =>
    unfold Parser.runUnitLoop
    split
    · exact .refl P
    · exact (P.keeps_iteration p _).trans (ih _)

theorem Parser.keeps_runUnit (p : Params) : P.Keeps (P.runUnit p) := P.keeps_runUnitLoop p _

theorem Parser.keeps_noteCallFirst (o : ParseOutcome) : P.Keeps (P.noteCallFirst o) := by constructor <;> simp

theorem Parser.keeps_unitOutcome : P.Keeps P.unitOutcome := by
  unfold Parser.unitOutcome
  split
  · exact .refl P
  · split
    · exact (P.keeps_noteCallFirst _).trans (Parser.keeps_bumpResult _ _)
    · split
      · exact P.keeps_bumpResult _
      · exact P.keeps_bumpResult _

end

/-! ## The read position -/

/-- How a step of the loop moves on in the unit: the position never goes back or past the end, and a step that
consumes nothing has raised an outcome, which leaves the parser in Idle (R263). -/
structure Parser.MovesOn (P Q : Parser) : Prop where
  le : P.call.rp ≤ Q.call.rp
  bound : Q.call.rp ≤ P.call.unit.length
  progress : P.call.rp < Q.call.rp ∨ Q.call.raised = true ∧ Q.eventIndex < 0 ∧ 0 ≤ P.eventIndex

@[simp] theorem CallState.noteOutcome_rp (o : ParseOutcome) (c : CallState) : (c.noteOutcome o).rp = c.rp := rfl
@[simp] theorem CallState.noteOutcome_raised (o : ParseOutcome) (c : CallState) : (c.noteOutcome o).raised = true := rfl
@[simp] theorem CallState.noteOutcome_unit (o : ParseOutcome) (c : CallState) : (c.noteOutcome o).unit = c.unit := rfl

@[simp] theorem Parser.settleLoop_call (fuel : Nat) (P : Parser) : (P.settleLoop fuel).call = P.call := by
  induction fuel generalizing P with
  | zero => rfl
  | succ fuel ih =>
    unfold Parser.settleLoop
    split
    · rfl
    · dsimp only
      split
      · split
        · rw [ih]; unfold Parser.leavePrefix; split <;> rfl
        · rfl
      · split
        · rw [ih]; rfl
        · rfl
      · split
        · split
          · rfl
          · rw [ih]; rfl
        · rfl

@[simp] theorem Parser.settle_call (P : Parser) : P.settle.call = P.call := Parser.settleLoop_call _ P

@[simp] theorem Parser.startEvent_call (P : Parser) (ev : Int) (w : Word) : (P.startEvent ev w).call = P.call := by
  simp [Parser.startEvent]

/-- What a scan of a chain gives back lies inside the words scanned, and is not nothing. -/
theorem scanChain_bounds (fuel : Nat) (ws : List Word) (i : Nat) (hf : ws.length < fuel)
    (h : ws ≠ [] ∨ 0 < i) (hi : 0 < i ∨ ∃ h tl, ws = h :: tl ∧ typeOf h = 0xFA#8) :
    match scanChain fuel ws i with
    | .whole n => 0 < n ∧ n ≤ i + ws.length
    | .dropped n => 0 < n ∧ n ≤ i + ws.length := by
  induction fuel generalizing ws i with
  | zero => omega
  | succ fuel ih =>
    unfold scanChain
    cases ws with
    | nil => simp only [List.length_nil]; rcases h with h | h <;> simp_all
    | cons w tl =>
      simp only [List.length_cons] at hf ⊢
      split_ifs with h1 h2 h3
      · simp only
        rcases hi with hi | ⟨_, _, he, ht⟩
        · omega
        · cases he; exact absurd ht h1
      · simp only; omega
      · have := ih (tl.drop (payloadWords w)) (i + 1 + payloadWords w)
          (by simp only [List.length_drop]; omega) (.inr (by omega)) (.inl (by omega))
        split at this <;> simp only [List.length_drop] at this ⊢ <;> simp_all <;> omega
      · simp only; omega

section
variable (P : Parser) (p : Params) (w : Word) (h : P.call.unit[P.call.rp]? = some w)
include h

theorem Parser.rp_lt_of_getElem? : P.call.rp < P.call.unit.length := by
  by_contra hc
  rw [List.getElem?_eq_none (by omega)] at h
  cases h

theorem Parser.ahead_eq_cons : P.ahead = w :: P.call.unit.drop (P.call.rp + 1) := by
  have hl := P.rp_lt_of_getElem? w h
  rw [List.getElem?_eq_getElem hl] at h
  cases h
  exact List.drop_eq_getElem_cons hl

theorem Parser.movesOn_sysEventChain (ht : typeOf w = 0xFA#8) :
    P.call.rp < (P.sysEventChain w).call.rp ∧ (P.sysEventChain w).call.rp ≤ P.call.unit.length := by
  have hl := P.rp_lt_of_getElem? w h
  have ha := P.ahead_eq_cons w h
  have hs := scanChain_bounds ((w :: P.ahead.drop 1).length + 1) (w :: P.ahead.drop 1) 0 (by omega)
    (.inl (by simp)) (.inr ⟨_, _, rfl, ht⟩)
  have hlen : (w :: P.ahead.drop 1).length = P.call.unit.length - P.call.rp := by
    rw [ha]; simp; omega
  unfold Parser.sysEventChain
  dsimp only
  split <;> rename_i n hn <;> rw [hn] at hs <;> simp only [hlen] at hs <;> simp <;> omega

theorem Parser.movesOn_idleStep : P.call.rp < (P.idleStep p w).call.rp ∧
    (P.idleStep p w).call.rp ≤ P.call.unit.length := by
  have hl := P.rp_lt_of_getElem? w h
  unfold Parser.idleStep
  have skip : P.call.rp < P.skipWord.call.rp ∧ P.skipWord.call.rp ≤ P.call.unit.length := by simp; omega
  have skipF : P.call.rp < (P.skipFrame w).call.rp ∧ (P.skipFrame w).call.rp ≤ P.call.unit.length := by
    simp [Parser.skipFrame, Parser.remaining]; omega
  split
  · rename_i hk
    have ht := frameKind_type p (typeOf w)
    rw [hk] at ht
    exact P.movesOn_sysEventChain w h ht
  · unfold Parser.idleStackFrame
    dsimp only
    split_ifs <;> simp <;> omega
  all_goals first | exact skipF | exact skip

theorem Parser.movesOn_copy (ph : Phase) : P.call.rp < (P.copy p ph w).call.rp ∧
    (P.copy p ph w).call.rp ≤ P.call.unit.length := by
  have hl := P.rp_lt_of_getElem? w h
  unfold Parser.copy
  split
  · simp; omega
  · simp; omega

theorem Parser.movesOn_frameWord (he : 0 ≤ P.eventIndex) : P.MovesOn (P.frameWord p w) := by
  have hl := P.rp_lt_of_getElem? w h
  have hc := fun ph => P.movesOn_copy p w h ph
  have ok : ∀ Q : Parser, P.call.rp < Q.call.rp ∧ Q.call.rp ≤ P.call.unit.length → P.MovesOn Q :=
    fun Q hq => ⟨by omega, hq.2, .inl hq.1⟩
  unfold Parser.frameWord
  split
  · exact ok _ (hc _)
  · split
    · unfold Parser.blockHeader
      split
      · exact ok _ (by simp; omega)
      · exact ⟨by simp, by simp; omega, .inr (by simp; omega)⟩
    · unfold Parser.dynData
      dsimp only
      split
      · exact ok _ (hc .dynamicPhase)
      · exact ok _ (hc .dynamicPhase)
  · exact ok _ (hc _)

theorem Parser.movesOn_awaitStep (he : 0 ≤ P.eventIndex) : P.MovesOn (P.awaitStep w) := by
  have hl := P.rp_lt_of_getElem? w h
  unfold Parser.awaitStep
  split
  · rename_i ht
    have := P.movesOn_sysEventChain w h ht
    exact ⟨by omega, this.2, .inl this.1⟩
  · split
    · split
      · exact ⟨by simp, by simp; omega, .inl (by simp)⟩
      · exact ⟨by simp, by simp; omega, .inr (by simp; omega)⟩
    · exact ⟨by simp, by simp; omega, .inr (by simp; omega)⟩

/-- Every branch of the loop's dispatch moves on (R263). -/
theorem Parser.movesOn_dispatch : P.MovesOn (P.dispatch p w) := by
  unfold Parser.dispatch
  split
  · have := P.movesOn_idleStep p w h
    exact ⟨by omega, this.2, .inl this.1⟩
  · split
    · exact P.movesOn_awaitStep w h (by omega)
    · have hf := P.movesOn_frameWord p w h (by omega)
      unfold Parser.frameStep
      dsimp only
      split
      · rename_i he
        exact ⟨by simpa using hf.le, by simpa using hf.bound, .inl (by
          rcases hf.progress with hp | hp
          · simpa using hp
          · omega)⟩
      · exact hf

/-- The guard of R263 does not fire: an iteration is its dispatch. -/
theorem Parser.iteration_eq_dispatch : P.iteration p w = P.clearRaised.dispatch p w := by
  have hm := P.clearRaised.movesOn_dispatch p w (by simpa using h)
  unfold Parser.iteration
  dsimp only
  rw [if_neg]
  rintro ⟨h1, h2⟩
  rcases hm.progress with hp | hp
  · simp at hp; omega
  · rw [hp.1] at h2; cases h2

/-- An iteration moves on. -/
theorem Parser.movesOn_iteration : P.MovesOn (P.iteration p w) := by
  rw [P.iteration_eq_dispatch p w h]
  have hm := P.clearRaised.movesOn_dispatch p w (by simpa using h)
  exact ⟨by simpa using hm.le, by simpa using hm.bound, by simpa using hm.progress⟩

end

end Sys2Proof.Machine
end

