-- ==== Sys2Proof/Laws/Frames.lean ====
section
/-! SUPPORT. What a header word does where it stands, once for all six frame headers and the two ETH words. -/

namespace Sys2Proof.Machine

/-- A call that reads a word is open. -/
theorem Parser.callOpen_of_nextWord {P : Parser} {x : Position × Word} (h : P.nextWord = some x) :
    P.callOpen = true := by
  unfold Parser.nextWord at h
  unfold Parser.callOpen
  split at h <;> simp_all

/-- A frame word that an open call reads is the word at the read position of its unit. -/
theorem Parser.getElem?_of_nextWord {P : Parser} {w : Word} (h : P.nextWord = some (.frame, w)) :
    P.call.unit[P.call.rp]? = some w := by
  unfold Parser.nextWord at h
  split at h <;> simp_all

/-- A frame word read by the open call is one iteration of the loop. -/
theorem frameWordStep_of_nextWord {s : State} {w : Word} (h : s.parser.nextWord = some (.frame, w)) :
    frameWordStep w s = .next (s.afterWord (s.parser.unitWord s.params w)) := by
  simp [frameWordStep, Parser.callOpen_of_nextWord h, h]

/-- A frame word at the head of the FIFO, with no call open, is a step of the reader. -/
theorem frameWordStep_of_head {s : State} {w : Word} (hc : s.parser.callOpen = false)
    (h : s.engine.fifo.head? = some w) :
    frameWordStep w s = .next (s.withEngine (s.engine.readerWord s.params w)) := by
  simp [frameWordStep, hc, h]

/-- A frame header's meaning is the meaning of its word. -/
theorem exec_eq_frameWordStep {s : State} {i : Instr} {w : Word} (he : encode s.params i = some w)
    (hp : positionOf i = .frame) : exec i s = frameWordStep w s := by
  cases i <;> simp only [encode, Option.some.injEq, reduceCtorEq] at he <;> subst he
  all_goals first | rfl | cases hp

/-- The word an instruction reads, with its position. -/
theorem State.Reads.word {s : State} {i : Instr} (h : s.Reads i) :
    ∃ w, encode s.params i = some w ∧ s.parser.nextWord = some (positionOf i, w) := by
  unfold State.Reads at h
  cases he : encode s.params i with
  | none => simp [he] at h
  | some w => simp only [he, Option.map_some, Option.some.injEq] at h; exact ⟨w, rfl, h.symm⟩

/-- What a frame header does where the open call reads it. -/
theorem exec_of_reads {s : State} {i : Instr} {w : Word} (h : s.Reads i) (hp : positionOf i = .frame)
    (he : encode s.params i = some w) :
    exec i s = .next (s.afterWord (s.parser.clearRaised.dispatch s.params w).unitProgress) := by
  obtain ⟨w', he', hn⟩ := h.word
  rw [he] at he'
  cases he'
  rw [hp] at hn
  rw [exec_eq_frameWordStep he hp, frameWordStep_of_nextWord hn]
  have := s.parser.iteration_eq_dispatch s.params w (Parser.getElem?_of_nextWord hn)
  rw [Parser.unitWord, this]

end Sys2Proof.Machine
end

