-- ==== Sys2Proof/Laws/PerInstr.lean ====
section
/-! SUPPORT. The family of statements made per instruction: an instruction's header word, read at the position
the instruction names, is that instruction again. An operation has no header word (log 10). -/

namespace Sys2Proof.Laws

/-- Whatever header word the encoder gives `i`, the decoder reads `i` from it. -/
def EncodesAtItsPosition.Statement (i : Instr) : Prop :=
  ∀ (p : Params) (w : Word), p.legal = true → encode p i = some w → decodeAt p (positionOf i) w = .ok i

theorem EncodesAtItsPosition.stack (flags : BitVec 4) (stackNum : BitVec 4) (ctrlId : BitVec 3) (length : BitVec 13) :
    EncodesAtItsPosition.Statement (.stack flags stackNum ctrlId length) := by
  intro p w h hw
  cases hw
  simp [decodeAt, positionOf, decodeFrameWord, frameKind_stack h]

theorem EncodesAtItsPosition.cont (flags : BitVec 4) (stackNum : BitVec 4) (ctrlId : BitVec 3) (length : BitVec 13) :
    EncodesAtItsPosition.Statement (.cont flags stackNum ctrlId length) := by
  intro p w h hw
  cases hw
  simp [decodeAt, positionOf, decodeFrameWord, frameKind_cont h]

theorem EncodesAtItsPosition.block (flags : BitVec 4) (stackNum : BitVec 4) (ctrlId : BitVec 3) (length : BitVec 13) :
    EncodesAtItsPosition.Statement (.block flags stackNum ctrlId length) := by
  intro p w h hw
  cases hw
  simp [decodeAt, positionOf, decodeFrameWord, frameKind_block h]

theorem EncodesAtItsPosition.super (flags : BitVec 4) (stackNum : BitVec 4) (ctrlId : BitVec 3) (length : BitVec 13) :
    EncodesAtItsPosition.Statement (.super flags stackNum ctrlId length) := by
  intro p w _ hw
  cases hw
  simp [decodeAt, positionOf, decodeFrameWord, frameKind_super]

theorem EncodesAtItsPosition.stkerr (flags : BitVec 4) (stackNum : BitVec 4) (ctrlId : BitVec 3) (length : BitVec 13) :
    EncodesAtItsPosition.Statement (.stkerr flags stackNum ctrlId length) := by
  intro p w h hw
  cases hw
  simp [decodeAt, positionOf, decodeFrameWord, frameKind_stackErr h]

theorem EncodesAtItsPosition.sysev (continueBit : BitVec 1) (ctrlId : BitVec 3) (subtype : BitVec 7) (length : BitVec 13) :
    EncodesAtItsPosition.Statement (.sysev continueBit ctrlId subtype length) := by
  intro p w h hw
  cases hw
  simp [decodeAt, positionOf, decodeFrameWord, frameKind_sysEvent h]

theorem EncodesAtItsPosition.eth0 (packetChannel : BitVec 4) (packetNumber : BitVec 12) (ignored : BitVec 3) (numDataWords : BitVec 13) :
    EncodesAtItsPosition.Statement (.eth0 packetChannel packetNumber ignored numDataWords) := by
  intro p w _ hw
  cases hw
  simp [decodeAt, positionOf]

theorem EncodesAtItsPosition.eth1 (timestamp : BitVec 20) (headerPointer : BitVec 12) :
    EncodesAtItsPosition.Statement (.eth1 timestamp headerPointer) := by
  intro p w _ hw
  cases hw
  simp [decodeAt, positionOf]

theorem EncodesAtItsPosition.decodeHeader (w : Word) :
    EncodesAtItsPosition.Statement (.decodeHeader w) := by
  intro p w _ hw
  cases hw

theorem EncodesAtItsPosition.encodeHeader (type flags id length : Nat) :
    EncodesAtItsPosition.Statement (.encodeHeader type flags id length) := by
  intro p w _ hw
  cases hw

theorem EncodesAtItsPosition.isGoodHeader (w : Word) :
    EncodesAtItsPosition.Statement (.isGoodHeader w) := by
  intro p w _ hw
  cases hw

theorem EncodesAtItsPosition.frameKind (type : BitVec 8) :
    EncodesAtItsPosition.Statement (.frameKind type) := by
  intro p w _ hw
  cases hw

theorem EncodesAtItsPosition.decodeSyseventHeader (w : Word) :
    EncodesAtItsPosition.Statement (.decodeSyseventHeader w) := by
  intro p w _ hw
  cases hw

theorem EncodesAtItsPosition.encodeSyseventHeader (continueBit ctrlId subtype length : Nat) :
    EncodesAtItsPosition.Statement (.encodeSyseventHeader continueBit ctrlId subtype length) := by
  intro p w _ hw
  cases hw

theorem EncodesAtItsPosition.hasContinue (w : Word) :
    EncodesAtItsPosition.Statement (.hasContinue w) := by
  intro p w _ hw
  cases hw

theorem EncodesAtItsPosition.decodeEthHeader (w0 w1 : Word) :
    EncodesAtItsPosition.Statement (.decodeEthHeader w0 w1) := by
  intro p w _ hw
  cases hw

theorem EncodesAtItsPosition.buildReadoutStructure (programs : Programs) :
    EncodesAtItsPosition.Statement (.buildReadoutStructure programs) := by
  intro p w _ hw
  cases hw

theorem EncodesAtItsPosition.sessionReset (rs : ReadoutStructure) :
    EncodesAtItsPosition.Statement (.sessionReset rs) := by
  intro p w _ hw
  cases hw

theorem EncodesAtItsPosition.parseUsbBuffer (bufferNumber : BitVec 32) (words : List Word) :
    EncodesAtItsPosition.Statement (.parseUsbBuffer bufferNumber words) := by
  intro p w _ hw
  cases hw

theorem EncodesAtItsPosition.parseEthBuffer (bufferNumber : BitVec 32) (words : List Word) :
    EncodesAtItsPosition.Statement (.parseEthBuffer bufferNumber words) := by
  intro p w _ hw
  cases hw

theorem EncodesAtItsPosition.endOfStream :
    EncodesAtItsPosition.Statement (.endOfStream) := by
  intro p w _ hw
  cases hw

theorem EncodesAtItsPosition.readParserCounters :
    EncodesAtItsPosition.Statement (.readParserCounters) := by
  intro p w _ hw
  cases hw

theorem EncodesAtItsPosition.engineConstruct :
    EncodesAtItsPosition.Statement (.engineConstruct) := by
  intro p w _ hw
  cases hw

theorem EncodesAtItsPosition.submitSuperTransaction (ref : BitVec 16) (words : List Word) :
    EncodesAtItsPosition.Statement (.submitSuperTransaction ref words) := by
  intro p w _ hw
  cases hw

theorem EncodesAtItsPosition.submitStackTransaction (ref : BitVec 32) (words : List Word) :
    EncodesAtItsPosition.Statement (.submitStackTransaction ref words) := by
  intro p w _ hw
  cases hw

theorem EncodesAtItsPosition.rxWords (ws : List Word) :
    EncodesAtItsPosition.Statement (.rxWords ws) := by
  intro p w _ hw
  cases hw

theorem EncodesAtItsPosition.readerStep :
    EncodesAtItsPosition.Statement (.readerStep) := by
  intro p w _ hw
  cases hw

theorem EncodesAtItsPosition.rxTimeout :
    EncodesAtItsPosition.Statement (.rxTimeout) := by
  intro p w _ hw
  cases hw

theorem EncodesAtItsPosition.rxDisconnect :
    EncodesAtItsPosition.Statement (.rxDisconnect) := by
  intro p w _ hw
  cases hw

theorem EncodesAtItsPosition.requestStop :
    EncodesAtItsPosition.Statement (.requestStop) := by
  intro p w _ hw
  cases hw

theorem EncodesAtItsPosition.clearStackErrorCounters :
    EncodesAtItsPosition.Statement (.clearStackErrorCounters) := by
  intro p w _ hw
  cases hw

theorem EncodesAtItsPosition.readEngineCounters :
    EncodesAtItsPosition.Statement (.readEngineCounters) := by
  intro p w _ hw
  cases hw

theorem EncodesAtItsPosition.generateEvent (ev : BitVec 4) (ctrlId : BitVec 3) (mods : List GenModule) (frameMax : BitVec 13) :
    EncodesAtItsPosition.Statement (.generateEvent ev ctrlId mods frameMax) := by
  intro p w _ hw
  cases hw

theorem EncodesAtItsPosition.generateSystemEvent (hdr : Word) (pay : List Word) (frameMax : BitVec 13) :
    EncodesAtItsPosition.Statement (.generateSystemEvent hdr pay frameMax) := by
  intro p w _ hw
  cases hw

end Sys2Proof.Laws
end

