-- ==== Sys2Proof/Laws/SideBySide.lean ====
section
/-! SUPPORT. What turning to another session or engine and making a new one can do: no session, no engine and no
caller is lost (R414, R321). -/

namespace Sys2Proof.Machine

/-- An element and the list around it change places. -/
theorem cons_set_perm {α : Type} {l : List α} {k : Nat} {c : α} (a : α) (h : l[k]? = some c) :
    (c :: l.set k a).Perm (a :: l) := by
  obtain ⟨hk, rfl⟩ := List.getElem?_eq_some_iff.mp h
  rw [List.set_eq_take_append_cons_drop, if_pos hk]
  conv => rhs; rw [← List.take_append_drop k l, List.drop_eq_getElem_cons hk]
  exact (List.perm_middle.cons _).trans ((List.Perm.swap _ _ _).trans (List.perm_middle.symm.cons _))

variable (s : State)

/-! ## Engines -/

@[simp] theorem State.mem_correlators (c : Correlator) :
    c ∈ s.correlators ↔ c = s.correlator ∨ c ∈ s.otherEngines := List.mem_cons

@[simp] theorem State.correlator_withCorrelator (c : Correlator) : (s.withCorrelator c).correlator = c := rfl

/-- Without a `k`-th other engine, turning to it does nothing. -/
theorem State.turnToEngine_of_none {k : Nat} (h : s.otherEngines[k]? = none) : s.turnToEngine k = s := by
  simp [State.turnToEngine, h]

/-- Turning to the `k`-th other engine exchanges it with the present one. -/
theorem State.turnToEngine_of_some {k : Nat} {c : Correlator} (h : s.otherEngines[k]? = some c) :
    s.turnToEngine k = { s.withCorrelator c with otherEngines := s.otherEngines.set k s.correlator } := by
  simp [State.turnToEngine, h]

/-- Turning keeps every engine with its callers, and adds none. -/
theorem State.correlators_turnToEngine (k : Nat) : (s.turnToEngine k).correlators.Perm s.correlators := by
  cases h : s.otherEngines[k]? with
  | none => rw [s.turnToEngine_of_none h]
  | some c =>
    rw [s.turnToEngine_of_some h]
    exact cons_set_perm s.correlator h

/-- A new engine stands before all the engines there were. -/
theorem State.correlators_engineConstruct {t : State} (h : execEngineConstruct s = .next t) :
    t.correlators = ⟨.constructed, []⟩ :: s.correlators := by
  cases h; rfl

/-! ## Sessions -/

@[simp] theorem State.mem_sessions (P : Parser) : P ∈ s.sessions ↔ P = s.parser ∨ P ∈ s.otherSessions :=
  List.mem_cons

/-- Without a `k`-th other session, turning to it does nothing. -/
theorem State.turnToSession_of_none {k : Nat} (h : s.otherSessions[k]? = none) : s.turnToSession k = s := by
  simp [State.turnToSession, h]

/-- Turning to the `k`-th other session exchanges it with the present one. -/
theorem State.turnToSession_of_some {k : Nat} {P : Parser} (h : s.otherSessions[k]? = some P) :
    s.turnToSession k = { s.withParser P with otherSessions := s.otherSessions.set k s.parser } := by
  simp [State.turnToSession, h]

/-- Turning keeps every session, and adds none. -/
theorem State.sessions_turnToSession (k : Nat) : (s.turnToSession k).sessions.Perm s.sessions := by
  cases h : s.otherSessions[k]? with
  | none => rw [s.turnToSession_of_none h]
  | some P =>
    rw [s.turnToSession_of_some h]
    exact cons_set_perm s.parser h

/-- What `session_reset` does where it has a next state: a new session with the table, before the sessions there
were. -/
theorem State.sessions_sessionReset {rs : ReadoutStructure} {t : State} (h : execSessionReset rs s = .next t) :
    t.sessions = .afterReset true rs :: s.sessionsKept := by
  unfold execSessionReset State.exclusive at h
  split at h
  · cases h
  · split at h
    · cases h; rfl
    · cases h

/-- A session there was is kept. -/
theorem State.mem_sessionsKept {P : Parser} (h : P ∈ s.sessions) (hs : P.session = true) : P ∈ s.sessionsKept := by
  unfold State.sessionsKept
  rcases (s.mem_sessions P).mp h with rfl | h
  · simp [hs]
  · split <;> simp [h]

end Sys2Proof.Machine
end

