-- ==== Sys2Proof/Tests/Slice0.lean ====
section
/-! SUPPORT. The model's own tests: words and results taken from the encodings and the vectors of the spec,
the ill-formed operands that are refused, and a witness for the hypotheses of every statement that has any. -/

namespace Sys2Proof.Tests
open Sys2Proof Sys2Proof.Machine

/-! ## Helpers -/

/-- The next state of an outcome, if there is one. -/
def nextOf (o : Host.Outcome State Fault Refusal) : Option State :=
  match o with
  | .next t => some t
  | .fault _ => none
  | .refused _ => none

/-- The refusal of an outcome, if it is one. -/
def refusalOf (o : Host.Outcome State Fault Refusal) : Option Refusal :=
  match o with
  | .next _ => none
  | .fault _ => none
  | .refused r => some r

/-- What an instruction answers, run on `s`. -/
def answer (i : Instr) (s : State) : Option OpResult := (nextOf (exec i s)).map State.result

/-- A small machine: 4 scratch words, 2 modules an event, replies of 2 words. -/
def small : Params := { Params.suggested with scratchWords := 4, maxModules := 2, respMaxWords := 2 }

/-- The small machine with a session of table `rs`. -/
def session (rs : ReadoutStructure) : State :=
  { State.reset with params := small, parser := .afterReset true rs }

/-- A session in the middle of a USB unit `U`, at its first word. -/
def inUnit (rs : ReadoutStructure) (U : List Word) : State := (session rs).openUsbUnit U

/-- The parser of `s` changed by `f`. -/
def on (s : State) (f : Parser → Parser) : State := s.withParser (f s.parser)

/-- An event of row 0 in progress at module 0 in phase `ph`, with the stack frame `c` open. -/
def inEvent (ph : Phase) (c : Cursor) (P : Parser) : Parser :=
  { P with eventIndex := 0, moduleIndex := 0, phase := ph, stackF := c }

/-- A session at stage `g` of an ETH call. -/
def inPacket (g : CallStage) : State := on (session []) (Parser.atStage g)

/-- The small machine with the engine changed by `f`. -/
def engine (f : Engine → Engine) : State := { State.reset with params := small, engine := f .constructed }

/-- The engine with FIFO contents `ws`. -/
def fifo (ws : List Word) : State := engine (fun T => { T with fifo := ws })

/-- The engine while it collects a chain of stack 1 that holds the words `ch`, FIFO contents `ws`. -/
def collecting (ch ws : List Word) : State :=
  engine (fun T => { T with fifo := ws, collecting := true, chainStack := 1, chainWords := ch })

/-- The machine with one caller. -/
def withCaller (q : Request) (k : CallerStep) (f : Engine → Engine) : State :=
  { engine f with callers := [⟨q, [0xAB], k⟩] }

/-! ## Decoding: words written out from R100, R107, R108, R109 -/

/-- type F3, flags 8, stack 3, ctrl 1, length 2. -/
theorem test_decode_stack : decodeAt .suggested .frame 0b11110011_1000_0011_001_0000000000010#32 =
    .ok (.stack 8 3 1 2) := rfl
/-- type F9, flags 0, stack 15, ctrl 5, length 4096. -/
theorem test_decode_cont : decodeAt .suggested .frame 0b11111001_0000_1111_101_1000000000000#32 =
    .ok (.cont 0 15 5 4096) := rfl
/-- type F5, flags 8, stack 0, ctrl 0, length 8191. -/
theorem test_decode_block : decodeAt .suggested .frame 0b11110101_1000_0000_000_1111111111111#32 =
    .ok (.block 8 0 0 8191) := rfl
/-- type F1, flags 0, stack 0, ctrl 0, length 2. -/
theorem test_decode_super : decodeAt .suggested .frame 0b11110001_0000_0000_000_0000000000010#32 =
    .ok (.super 0 0 0 2) := rfl
/-- type F7, flags 2, stack 2, ctrl 0, length 1. -/
theorem test_decode_stkerr : decodeAt .suggested .frame 0b11110111_0010_0010_000_0000000000001#32 =
    .ok (.stkerr 2 2 0 1) := rfl
/-- type FA, continue 1, ctrl 2, subtype 65, length 3. -/
theorem test_decode_sysev : decodeAt .suggested .frame 0b11111010_1_010_1000001_0000000000011#32 =
    .ok (.sysev 1 2 65 3) := rfl
/-- channel 5, number 7, ignored 4, data words 3. -/
theorem test_decode_eth0 : decodeAt .suggested .ethWord0 0b0101_000000000111_100_0000000000011#32 =
    .ok (.eth0 5 7 4 3) := rfl
/-- timestamp 9, header pointer FFF. -/
theorem test_decode_eth1 : decodeAt .suggested .ethWord1 0b00000000000000001001_111111111111#32 =
    .ok (.eth1 9 0xFFF) := rfl
/-- A type byte that is none of the six codes is refused by name (R111). -/
theorem test_decode_refused : decodeAt .suggested .frame 0x12345678#32 =
    .error (.notRecognizedType 0x12) := rfl
/-- Fewer than four bytes are no word (R71). -/
theorem test_decode_partial : decodeBytes .suggested .frame [1, 2, 3] = .error .partialWord := rfl
/-- Bytes in arrival order, least significant first (log 3). -/
theorem test_bytes_little : decodeBytes .suggested .frame [0x02, 0x20, 0x83, 0xF3, 0xEE] =
    .ok (.stack 8 3 1 2, [0xEE]) := rfl
/-- The encoder writes the words of R100 to R109 back. -/
theorem test_encode : [Instr.stack 8 3 1 2, .cont 0 15 5 4096, .block 8 0 0 8191, .super 0 0 0 2, .stkerr 2 2 0 1,
      .sysev 1 2 65 3, .eth0 5 7 4 3, .eth1 9 0xFFF].map (encode .suggested) =
    [some 0xF3832002#32, some 0xF90FB000#32, some 0xF5801FFF#32, some 0xF1000002#32, some 0xF7220001#32,
      some 0xFAA82003#32, some 0x50078003#32, some 0x00009FFF#32] := by decide
/-- The host's two questions, for one row. -/
theorem test_table_word : decodeTableWord 32 0xF3832002 = some (.stack 8 3 1 2) := by decide
theorem test_fetch_word : let s := State.reset.withFetchWord 32 0xF3010002
    nextOf (step s) = nextOf (exec (.stack 0 1 0 2) s) ∧ (nextOf (step s)).isSome = true := by decide +kernel

/-! ## Ill-formed operands (R163, R307, R360) are refused -/

theorem test_refused_table_events : wellFormed small (.sessionReset (List.replicate 16 [])) = false ∧
    wellFormed small (.sessionReset (List.replicate 15 [])) = true := by decide
theorem test_refused_table_modules :
    wellFormed small (.sessionReset [List.replicate 3 ⟨1, 0, false⟩]) = false := by decide
theorem test_refused_empty_delivery : refusalOf (exec (.rxWords []) State.reset) = some .operandOutOfRange := rfl
theorem test_refused_event : refusalOf (exec (.generateEvent 15 0 [] 2) State.reset) = some .operandOutOfRange := rfl
theorem test_refused_limit : refusalOf (exec (.generateEvent 14 0 [] 1) State.reset) = some .operandOutOfRange := rfl
theorem test_refused_system_limit :
    refusalOf (exec (.generateSystemEvent 0 [] 1) State.reset) = some .operandOutOfRange := rfl
theorem test_refused_session :
    refusalOf (exec (.sessionReset (List.replicate 16 [])) State.reset) = some .operandOutOfRange := by decide
theorem test_refused_eth0 : refusalOf (exec (.eth0 0 0 0 0) State.reset) = some .notAtThisPosition := by decide
theorem test_refused_frame : refusalOf (exec (.stack 0 1 0 1) State.reset) = some .notAtThisPosition := by decide

/-! ## Results of the spec's vectors (95_test_vectors.md), one step each -/

/-- V10. -/
theorem test_decode_header : answer (.decodeHeader 0xF7240001) State.reset =
    some (.header ⟨0xF7, 2, 32, 1, .stackError⟩) := by decide
/-- V11: arguments are masked. -/
theorem test_encode_header : answer (.encodeHeader 0x1F3 0x1F 0x89 8193) State.reset =
    some (.word 0xF3F12001) := by decide
/-- V12: a continuation is no good header (R142). -/
theorem test_good_header : answer (.isGoodHeader 0xF9032002) State.reset = some (.bool false) ∧
    answer (.isGoodHeader 0xF3832002) State.reset = some (.bool true) := by decide
/-- R143. -/
theorem test_frame_kind : answer (.frameKind 0xF5) State.reset = some (.kind .blockRead) ∧
    answer (.frameKind 0x12) State.reset = some (.kind .notRecognized) := by decide
/-- V14. -/
theorem test_decode_sysevent : answer (.decodeSyseventHeader 0xFA20A003) State.reset =
    some (.sysEvent ⟨0, 2, 5, 3⟩) := by decide
theorem test_encode_sysevent : answer (.encodeSyseventHeader 0 7 63 5) State.reset =
    some (.word 0xFA77E005) := by decide
theorem test_has_continue : answer (.hasContinue 0xFA802002) State.reset = some (.bool true) ∧
    answer (.hasContinue 0xF9032002) State.reset = some (.bool false) := by decide
/-- V15. -/
theorem test_decode_eth : answer (.decodeEthHeader 0x3001E000 0xFFFFF002) State.reset =
    some (.eth ⟨3, 1, 0, 0xFFFFF, 2⟩) := by decide
/-- V17, V18. -/
theorem test_build : answer (.buildReadoutStructure
      [[[.custom 4, .vmeBlockRead, .custom 0, .writeMarker], [.setAccu, .other, .vmeRead]]]) State.reset =
    some (.table [[⟨4, 1, true⟩, ⟨0, 0, true⟩]]) := by decide
theorem test_build_failure : answer (.buildReadoutStructure
      [[[.vmeRead], [.vmeBlockRead, .setAccu, .vmeRead]], [[.custom 256]]]) State.reset =
    some (.buildError 0 1) := by decide
/-- V2. -/
theorem test_generate_event : answer (.generateEvent 2 1 [⟨[], some [0x10000001, 0x10000002], []⟩] 2) State.reset =
    some (.words [0xF3832002, 0xF5800001, 0x10000001, 0xF9032002, 0xF5000001, 0x10000002]) := by decide
/-- V3. -/
theorem test_generate_system_event : answer (.generateSystemEvent 0xFA002003 [0xA1, 0xA2, 0xA3] 2) State.reset =
    some (.words [0xFA802002, 0xA1, 0xA2, 0xFA002001, 0xA3]) := by decide
/-- V1, with one module. -/
theorem test_parse_usb :
    (nextOf (exec (.parseUsbBuffer 1 [0xF3810002, 0xF5800001, 0x11, 0xF9010002, 0xF5000001, 0x12])
      (session [[⟨0, 0, true⟩]]))).map (fun t => (t.result, t.parser.emitted)) =
    some (.outcome .ok, [.eventData 0 [⟨[0x11, 0x12], 2, 0, 2, 0⟩]]) := by decide +kernel
/-- V23: a repeated buffer number discards the event. -/
theorem test_parse_usb_loss :
    (nextOf (exec (.parseUsbBuffer 7 [0xF9010001, 0xB])
      (on (session [[⟨2, 0, false⟩]]) fun P => { inEvent .prefixPhase ⟨0xF3810001, 0⟩ P with
        lastBufferNumber := 7, bufSeqValid := true }))).map
      (fun t => (t.result, t.parser.counters.bufferLoss, t.parser.counters.unusedBytes)) =
    some (.outcome .noStackFrameFound, 4294967295, 8) := by decide +kernel
/-- V20. -/
theorem test_parse_eth :
    (nextOf (exec (.parseEthBuffer 1 [0x00000003, 0, 0xF3010002, 0xA, 0xB]) (session [[⟨2, 0, false⟩]]))).map
      (fun t => (t.result, t.parser.emitted, t.parser.counters.bytesProcessed)) =
    some (.outcome .ok, [.eventData 0 [⟨[0xA, 0xB], 2, 2, 0, 0⟩]], 20) := by decide +kernel
/-- V22: a packet without a header is skipped. -/
theorem test_parse_eth_skip :
    (nextOf (exec (.parseEthBuffer 1 [0x00000002, 0xFFF, 1, 2]) (session [[⟨1, 0, false⟩]]))).map
      (fun t => (t.result, t.parser.counters.unusedBytes)) = some (.outcome .noStackFrameFound, 8) := by
  decide +kernel
/-- V25. -/
theorem test_end_of_stream :
    answer .endOfStream (on (session [[⟨2, 0, false⟩]]) (inEvent .prefixPhase ⟨0xF3810001, 0⟩)) =
    some (.outcome .truncatedInput) := by decide
/-- V30: a StackFrame of length 0 is counted and tolerated. -/
theorem test_stack_empty :
    (nextOf (exec (.stack 0 1 0 0) (inUnit [[⟨1, 0, false⟩]] [0xF3010000]))).map
      (fun t => (t.result, t.parser.counters.parseResults.emptyStackFrame)) = some (.outcome .ok, 1) := by
  decide +kernel
/-- V34: a continuation of another stack number. -/
theorem test_cont_other :
    (nextOf (exec (.cont 0 2 0 1) (on (inUnit [[⟨2, 0, false⟩]] [0xF9020001]) (inEvent .prefixPhase ⟨0xF3810001, 0⟩)))).map
      (fun t => (t.parser.eventIndex, t.parser.counters.parseResults.stackIndexChanged)) = some (-1, 1) := by
  decide +kernel
/-- V46: a BlockRead of length 0 without Continue ends the dynamic part, and here the event. -/
theorem test_block_empty :
    (nextOf (exec (.block 0 0 0 0)
      (on (inUnit [[⟨0, 0, true⟩]] [0xF5000000]) (inEvent .dynamicPhase ⟨0xF3010001, 1⟩)))).map
      (fun t => t.parser.emitted) = some [.eventData 0 [⟨[], 0, 0, 0, 0⟩]] := by decide +kernel
/-- V43: a SuperFrame is skipped with its payload. -/
theorem test_super_skipped :
    (nextOf (exec (.super 0 0 0 1) (inUnit [] [0xF1000001, 5]))).map
      (fun t => (t.result, t.parser.counters.unusedBytes)) = some (.outcome .noStackFrameFound, 8) := by
  decide +kernel
/-- V38: a chain broken by another frame is dropped. -/
theorem test_sysev_dropped :
    (nextOf (exec (.sysev 1 0 1 1) (inUnit [] [0xFA802001, 7, 0xF5000000]))).map
      (fun t => (t.parser.counters.parseResults.systemEventDropped, t.parser.call.rp)) = some (1, 2) := by
  decide +kernel
/-- V24: packet 0 after packet 4095 is no loss. -/
theorem test_eth0_wrap :
    (nextOf (exec (.eth0 0 0 0 2) (on (inPacket (.ethHeader0 [2, 0])) fun P =>
      { P with lastPacketNumber := 4095, pktSeqValid := true }))).map
      (fun t => t.parser.counters.ethPacketLoss) = some 0 := by decide +kernel
/-- V22's second header word. -/
theorem test_eth1_no_header :
    (nextOf (exec (.eth1 0 0xFFF) (inPacket (.ethHeader1 2 [0xFFF, 1, 2])))).map
      (fun t => (t.result, t.parser.counters.unusedBytes)) = some (.outcome .noStackFrameFound, 8) := by
  decide +kernel
/-- V50. -/
theorem test_super_reply :
    (nextOf (exec .readerStep (engine fun T =>
      { T with slotSuper := .pending 0x1234, fifo := [0xF1000002, 0x00001234, 0xCAFE0000] }))).map
      (fun t => (t.engine.slotSuper, t.engine.fifo)) =
    some (.fulfilled (.ok [0x00001234, 0xCAFE0000]), []) := by decide
/-- V61: a reply larger than the destination. -/
theorem test_stack_reply_too_large :
    (nextOf (exec .readerStep (engine fun T =>
      { T with slotStack := .pending 7, fifo := [0xF3000003, 7, 8, 9] }))).map
      (fun t => t.engine.slotStack) = some (.fulfilled (.err .protocolError)) := by decide
/-- R315: a StackError frame is counted under its stack, line and flags. -/
theorem test_stack_error :
    (nextOf (exec (.stkerr 2 2 0 1) (fifo [0xF7220001, 0x00010005]))).map
      (fun t => t.engine.stackErrors.count 2 5 2) = some 1 := by decide
/-- V62: the stop flag is seen at the next read. -/
theorem test_rx_words_stop :
    (nextOf (exec (.rxWords [0xF1000001, 5]) (engine fun T =>
      { T with slotSuper := .pending 5, stopReq := true }))).map
      (fun t => (t.engine.slotSuper, t.engine.fifo, t.engine.running)) =
    some (.fulfilled (.err .disconnected), [], false) := by decide
/-- V58. -/
theorem test_disconnect :
    (nextOf (exec .rxDisconnect (engine fun T => { T with slotSuper := .pending 5, slotStack := .pending 7 }))).map
      (fun t => (t.engine.slotSuper, t.engine.slotStack)) =
    some (.fulfilled (.err .disconnected), .fulfilled (.err .disconnected)) := by decide
/-- V63b. -/
theorem test_timeout : (nextOf (exec .rxTimeout State.reset)).map
    (fun t => (t.engine.counters.readTimeouts, t.engine.running)) = some (1, true) := by decide
/-- V63c. -/
theorem test_clear_stack_errors : (nextOf (exec .clearStackErrorCounters (engine fun T =>
    { T with stackErrors := ⟨[(3, 1)], 2⟩ }))).map (fun t => t.engine.stackErrors) = some ⟨[], 0⟩ := by decide
/-- V7, row 0: a caller that has submitted stands at Start. -/
theorem test_submit_starts : (nextOf (exec (.submitStackTransaction 1 [7]) State.reset)).map
    (fun t => (t.callers, t.result)) = some ([⟨.stack 1, [7], .start⟩], .caller 0) := by decide
/-- V60: the caller's Start on a stopped engine. -/
theorem test_start_stopped :
    ((withCaller (.super 5) .start fun T => { T with running := false }).callerStep 0 true).callers =
    [⟨.super 5, [0xAB], .done (.err .disconnected)⟩] := by decide
/-- R321, R414: a caller of an engine that a new one replaced takes its result after the host turns back. -/
theorem test_replaced_engine_finishes :
    ((nextOf (exec .engineConstruct (withCaller (.super 5) .waitDone fun T =>
      { T with slotSuper := .fulfilled (.err .disconnected), running := false }))).map fun t =>
      (t.callers, ((t.turnToEngine 0).callerStep 0 true).callers)) =
    some ([], [⟨.super 5, [0xAB], .done (.err .disconnected)⟩]) := by decide
/-- R414: a new session shares no counter with the one before it, which keeps its own. -/
theorem test_replaced_session_goes_on :
    ((nextOf (exec (.parseUsbBuffer 1 [0]) (session []))).bind fun s => (nextOf (exec (.sessionReset [[]]) s)).map fun t =>
      (t.parser.counters.unusedBytes, (t.turnToSession 0).parser.counters.unusedBytes, (t.turnToSession 0).parser.rs)) =
    some (0, 4, []) := by decide +kernel
/-- V59. -/
theorem test_write_failure :
    ((withCaller (.stack 0x10) .writing fun T => { T with slotStack := .pending 0x10 }).callerStep 0 false).engine.slotStack =
    .free := by decide

/-! ## Witnesses: states and operands that meet the hypotheses of the statements, clause by clause -/

theorem witness_HeaderWordsRoundTrip : Params.suggested.legal = true ∧ small.legal = true ∧
    isHeaderWord (.stack 15 15 7 8191) = true ∧ isHeaderWord (.eth1 0 0) = true := by decide
theorem witness_DecodedBytesReencode :
    decodeBytes .suggested .frame [0x78, 0x56, 0x34, 0x12] = .error (.notRecognizedType 0x12) ∧
    decodeBytes .suggested .ethWord1 [0xFF, 0x9F, 0, 0] = .ok (.eth1 9 0xFFF, []) := ⟨rfl, rfl⟩
theorem witness_HeaderTestsReadTheType : State.reset.params.legal = true := by decide

theorem witness_BuilderReturnsTheTableOrTheFirstFailure_events : 15 < (List.replicate 16 ([] : List (List Command))).length ∧
    (List.replicate 15 ([] : List (List Command))).length ≤ 15 ∧
    answer (.buildReadoutStructure (List.replicate 16 [])) (session []) = some (.buildError 15 (-1)) ∧
    answer (.buildReadoutStructure (List.replicate 15 [])) (session []) = some (.table (List.replicate 15 [])) := by
  decide
theorem witness_BuilderReturnsTheTableOrTheFirstFailure_modules :
    let programs : Programs := [[[], []], [[], [], []]]
    programs[1]? = some [[], [], []] ∧ (session []).params.maxModules < 3 ∧
    ∀ f ms, f < 1 → programs[f]? = some ms → ms.length ≤ (session []).params.maxModules := by
  refine ⟨rfl, by decide, fun f ms hf h => ?_⟩
  obtain rfl : f = 0 := by omega
  cases h; decide
theorem witness_BuilderReturnsTheTableOrTheFirstFailure_malformed :
    let programs : Programs := [[[.vmeRead], [.custom 256]]]
    (∀ mods ∈ programs, mods.length ≤ (session []).params.maxModules) ∧
    programs[0]? = some [[.vmeRead], [.custom 256]] ∧ buildModule [.custom 256] = none ∧
    ∀ (k : Nat) c, k < 1 → [[Command.vmeRead], [.custom 256]][k]? = some c → buildModule c ≠ none := by
  refine ⟨by decide, rfl, by decide, fun k c hk h => ?_⟩
  obtain rfl : k = 0 := by omega
  cases h; decide
theorem witness_BuilderReturnsTheTableOrTheFirstFailure_table :
    let programs : Programs := [[], [[.vmeRead], [.custom 255]]]
    (∀ mods ∈ programs, mods.length ≤ (session []).params.maxModules) ∧
    ∀ mods ∈ programs, ∀ cmds ∈ mods, buildModule cmds ≠ none := by decide
/-- Counts at 255 and above; SetAccu apart from its read, and with no read after it. -/
theorem witness_BuildModuleCountsTheWords : [Command.custom 255].all Command.isPlain = true ∧
    [Command.setAccu, .writeMarker].all Command.isQuiet = true ∧ [Command.other].all Command.isQuiet = true ∧
    buildModule ([.custom 254] ++ (.setAccu :: ([.writeMarker, .other] ++ [.vmeRead])) ++ [.custom 255] ++ [.setAccu]) =
      some ⟨255, 255, true⟩ ∧
    buildModule ([.custom 255] ++ (.setAccu :: ([.writeMarker, .other] ++ [.vmeRead])) ++ [] ++ []) = none ∧
    buildModule ([.vmeRead] ++ [.setAccu, .writeMarker]) = some ⟨2, 0, false⟩ := by decide
theorem witness_BuiltTablesAreLegal : ∃ t rs, exec (.buildReadoutStructure [[[.vmeRead]]]) State.reset = .next t ∧
    t.result = .table rs := ⟨_, [[⟨1, 0, false⟩]], rfl, by decide⟩

theorem witness_SessionResetSetsEveryRegister : State.reset.parser.callOpen = false ∧
    ReadoutStructure.legal State.reset.params (List.replicate 15 []) = true := by decide
theorem witness_OverlappingAccessIsRefused : (inUnit [] [0]).parser.callOpen = true ∧
    (inPacket (.ethHeader1 0 [0])).parser.callOpen = true := by decide
theorem witness_OperationsOutsideTheirDomainAreRefused : State.reset.parser.callOpen = false ∧
    State.reset.parser.session = false ∧ wellFormed State.reset.params (.rxWords []) = false ∧
    wellFormed State.reset.params (.generateEvent 14 0 [] 1) = false := by decide
theorem witness_ParseCallsComplete : (session []).parser.session = true ∧ (session []).parser.callOpen = false := by
  decide
theorem witness_LostBuffersAbandonTheEvent :
    let s := on (session [[⟨2, 0, false⟩]]) fun P => { inEvent .prefixPhase ⟨0xF3810001, 0⟩ P with
      lastBufferNumber := 7, bufSeqValid := true }
    s.parser.bufSeqValid = true ∧ (7#32 ≠ s.parser.lastBufferNumber + 1) ∧ (9#32 ≠ s.parser.lastBufferNumber + 1) := by
  decide
theorem witness_GarbageIsSkippedAndCounted : let s := session []
    s.parser.session = true ∧ s.parser.callOpen = false ∧ s.parser.bufSeqValid = false ∧ s.parser.eventIndex < 0 ∧
    [0xF5001FFF#32, 0xF9000000, 0x12345678].map (fun w => frameKind s.params (typeOf w)) =
      [.blockRead, .stackContinuation, .notRecognized] := by decide
theorem witness_EndOfStreamTruncatesTheEvent :
    let s := on (session [[⟨2, 0, false⟩]]) (inEvent .prefixPhase ⟨0xF3810001, 0⟩)
    s.parser.session = true ∧ s.parser.callOpen = false ∧ 0 ≤ s.parser.eventIndex ∧
    (session []).parser.eventIndex < 0 := by decide
theorem witness_CounterReadsReturnCopies : State.reset.parser.callOpen = false := by decide

/-- Below the limit, and at it: a frame that a BlockRead header does not fit any more. -/
theorem witness_GenerateEventWritesFrames : (14#4).toNat ≤ 14 ∧ 2 ≤ (3#13).toNat ∧
    ([GenModule.mk [1] (some []) []].flatMap GenModule.payload).length < (3#13).toNat ∧
    ¬ ([GenModule.mk [1] (some []) []].flatMap GenModule.payload).length < (2#13).toNat ∧
    answer (.generateEvent 0 0 [⟨[1], some [], []⟩] 2) State.reset =
      some (.words (framed ((0#4 + 1) ++ 0#3) 0xF3#8 [[1], [0xF5000000]])) ∧
    Packs 2 [] ([GenModule.mk [1] (some []) []].flatMap GenModule.items) [[1], [0xF5000000]] := by
  refine ⟨by decide, by decide, by decide, by decide, by decide, ?_⟩
  exact .word _ _ _ _ (by decide) (.noRoom _ _ _ _ (by decide) (.block _ _ _ _ (by decide) (by decide) (.last _)))
theorem witness_GenerateSystemEventSplitsSections : 2 ≤ (2#13).toNat ∧
    [1#32, 2].length ≤ (2#13).toNat ∧ (2#13).toNat < [1#32, 2, 3].length := by decide
/-- One module of one prefix word and an empty dynamic part, cut after the first word. -/
theorem witness_GeneratedEventsRoundTrip : let s := session []
    let mods : List GenModule := [⟨[0xA], some [], []⟩]
    s.params.legal = true ∧ s.parser.callOpen = false ∧
    ReadoutStructure.legal s.params [[⟨1, 0, true⟩]] = true ∧ [[ModuleShape.mk 1 0 true]][(0#4).toNat]? = some [⟨1, 0, true⟩] ∧
    List.Forall₂ GenModule.Fits mods [⟨1, 0, true⟩] ∧ 2 ≤ (3#13).toNat ∧
    (mods.flatMap GenModule.data).length ≤ s.params.scratchWords ∧
    (∃ g ∈ mods, g.data ≠ [] ∨ g.dynamicWords ≠ none) ∧
    nextOf (exec (.generateEvent 0 0 mods 3) s) =
      some { s with result := .words [0xF3010002, 0xA, 0xF5000000] } ∧
    [[0xF3010002], [0xA, 0xF5000000]].flatten = [0xF3010002#32, 0xA, 0xF5000000] := by
  refine ⟨by decide, by decide, by decide, rfl, .cons ⟨rfl, rfl, rfl⟩ .nil, by decide, by decide,
    ⟨_, .head _, .inl (by decide)⟩, by decide, rfl⟩
theorem witness_GeneratedSystemEventRoundTrips :
    let s := session []
    let t := on (session [[⟨2, 0, false⟩]]) (inEvent .prefixPhase ⟨0xF3810001, 0⟩)
    s.params.legal = true ∧ s.parser.session = true ∧ s.parser.callOpen = false ∧ s.parser.bufSeqValid = false ∧
    s.parser.eventIndex < 0 ∧ 0 ≤ t.parser.eventIndex ∧ t.parser.stackF.left = 0 ∧
    answer (.generateSystemEvent 0xFA002003 [1, 2, 3] 2) s = some (.words [0xFA802002, 1, 2, 0xFA002001, 3]) ∧
    (nextOf (exec (.parseUsbBuffer 1 [0xFA802002, 1, 2, 0xFA002001, 3]) t)).map (fun u => (u.result, u.parser.emitted)) =
      some (.outcome .needMoreInput, [.systemEvent [0xFA802002, 1, 2, 0xFA002001, 3]]) := by decide +kernel

theorem witness_StepRunsWhatItFetches :
    (inUnit [] [0xF3010001]).parser.nextWord = some (.frame, 0xF3010001#32) ∧
    (inPacket (.ethHeader0 [1, 2])).parser.nextWord = some (.ethWord0, 1#32) ∧
    (inPacket (.ethHeader1 1 [2])).parser.nextWord = some (.ethWord1, 2#32) ∧
    State.reset.parser.nextWord = none ∧ State.reset.schedule = [] ∧
    { State.reset with schedule := [.op .rxTimeout] }.schedule = [.op .rxTimeout] ∧
    { State.reset with schedule := [.caller 0 true] }.schedule = [.caller 0 true] ∧
    { State.reset with schedule := [.turnToEngine 0], otherEngines := [⟨.constructed, []⟩] }.otherEngines[0]? =
      some ⟨.constructed, []⟩ ∧ State.reset.otherEngines.length ≤ 0 ∧
    { session [] with schedule := [.turnToSession 0], otherSessions := [.afterReset true [[]]] }.otherSessions[0]? =
      some (.afterReset true [[]]) ∧ (session []).otherSessions.length ≤ 0 := by decide
theorem witness_NoWordStopsTheParser : (inUnit [] [0x12345678]).parser.nextWord = some (.frame, 0x12345678#32) ∧
    (inUnit [] [0xF3010001]).Reads (.stack 0 1 0 1) ∧ (inPacket (.ethHeader0 [3, 2])).Reads (.eth0 0 0 0 3) := by
  decide
theorem witness_UnitEndFormsTheOutcome :
    let usb := (inUnit [] [0xF3010001]).parser
    let ended (g : CallStage) : Parser := (inPacket g).parser
    usb.call.rp < usb.call.unit.length ∧
    (ended .usbUnit).call.unit.length ≤ (ended .usbUnit).call.rp ∧
    (ended (.ethUnit [])).call.stage = .ethUnit [] ∧ (ended (.ethUnit [1])).call.stage = .ethUnit [1] ∧
    (ended (.ethUnit [1, 2])).call.unit.length ≤ (ended (.ethUnit [1, 2])).call.rp := by decide
/-- A frame whose payload the unit holds, and one it does not hold in full. -/
theorem witness_ForeignFramesAreSkippedInIdle : let s := inUnit [] [0xF1000001, 5, 6]
    let t := inUnit [] [0xF7001FFF]
    s.params.legal = true ∧ s.parser.eventIndex < 0 ∧ s.Reads (.super 0 0 0 1) ∧ t.Reads (.stkerr 0 0 0 8191) := by
  decide
theorem witness_OtherWordsAreSkippedInIdle : (inUnit [] [0xF5000007]).Reads (.block 0 0 0 7) ∧
    (inUnit [] [0xF9000000]).Reads (.cont 0 0 0 0) ∧
    (inUnit [] [0x12345678]).parser.nextWord = some (.frame, 0x12345678#32) ∧
    frameKind small (typeOf 0x12345678) = .notRecognized := by decide
/-- Length 0; the stack numbers just outside a table of one row; a row without modules; an open block. -/
theorem witness_StackHeadersThatStartNoEvent :
    (inUnit [[]] [0xF3010000]).Reads (.stack 0 1 0 0) ∧ (inUnit [[]] [0xF3000001]).Reads (.stack 0 0 0 1) ∧
    (inUnit [[]] [0xF3020001]).Reads (.stack 0 2 0 1) ∧ (inUnit [[]] [0xF3020001]).parser.rs.length < (2#4).toNat ∧
    (inUnit [[]] [0xF3010001]).Reads (.stack 0 1 0 1) ∧
    (inUnit [[]] [0xF3010001]).parser.rs[(1#4).toNat - 1]? = some [] ∧
    ((nextOf (exec (.stack 0 1 0 1) (on (inUnit [[⟨1, 0, false⟩]] [0xF3010001]) fun P => { P with blockF := ⟨0, 1⟩ }))).map
      fun t => t.parser.counters.parseResults.unexpectedOpenBlockOnNewEvent) = some 1 := by decide +kernel
/-- A first module that needs words, one passed over, and a row that needs none. -/
theorem witness_StackHeadersStartEvents :
    let s (row : List ModuleShape) : State := inUnit [row] [0xF3010001]
    (∀ row ∈ [[ModuleShape.mk 1 0 false], [⟨0, 0, false⟩, ⟨0, 0, true⟩], [⟨0, 0, false⟩, ⟨0, 1, false⟩], [⟨0, 0, false⟩]],
      (s row).Reads (.stack 0 1 0 1) ∧ (s row).parser.rs[(1#4).toNat - 1]? = some row ∧
      (s row).parser.blockF.left = 0 ∧ (s row).parser.eventIndex < 0) ∧
    ((nextOf (exec (.stack 0 1 0 1) (s [⟨0, 0, false⟩, ⟨0, 1, false⟩]))).map
      fun t => (t.parser.moduleIndex, t.parser.phase)) = some (1, .suffixPhase) ∧
    ((nextOf (exec (.stack 0 1 0 1) (s [⟨0, 0, false⟩]))).map fun t => t.parser.emitted) =
      some [.eventData 0 [⟨[], 0, 0, 0, 0⟩]] := by decide +kernel
/-- The same stack number, the next one, each other kind of frame and of word, in an event of row 0. -/
theorem witness_OnlyItsContinuationContinuesAnEvent :
    let s (w : Word) : State := on (inUnit [[⟨2, 0, false⟩]] [w]) (inEvent .prefixPhase ⟨0xF3810001, 0⟩)
    (s 0).params.legal = true ∧ 0 ≤ (s 0).parser.eventIndex ∧ (s 0).parser.stackF.left = 0 ∧
    1#4 = stackNumOf (s 0).parser.stackF.hdr ∧ (s 0xF9010001).Reads (.cont 0 1 0 1) ∧
    (s 0xF9020001).Reads (.cont 0 2 0 1) ∧ (s 0xF3010001).Reads (.stack 0 1 0 1) ∧
    (s 0xF5010001).Reads (.block 0 1 0 1) ∧ (s 0xF1010001).Reads (.super 0 1 0 1) ∧
    (s 0xF7010001).Reads (.stkerr 0 1 0 1) ∧ (s 0x10000001).parser.nextWord = some (.frame, 0x10000001#32) ∧
    frameKind small (typeOf 0x10000001) = .notRecognized := by decide
/-- A block of one word, an empty one with Continue, an empty one without, and each other kind of frame. -/
theorem witness_OnlyBlockHeadersOpenBlocks :
    let s (w : Word) : State := on (inUnit [[⟨0, 1, true⟩]] [w]) (inEvent .dynamicPhase ⟨0xF3010003, 3⟩)
    0 ≤ (s 0).parser.eventIndex ∧ (s 0).parser.stackF.left ≠ 0 ∧ (s 0).parser.blockF.left = 0 ∧
    (s 0).parser.currentModule = some ⟨0, 1, true⟩ ∧ ((s 0).parser.span 0).suffixSpan.size ≠ (1#8).toNat ∧
    (s 0xF5000001).Reads (.block 0 0 0 1) ∧ (s 0xF5800000).Reads (.block 8 0 0 0) ∧ (8#4).getLsbD 3 = true ∧
    (s 0xF5000000).Reads (.block 0 0 0 0) ∧ (s 0xF3010001).Reads (.stack 0 1 0 1) ∧
    (s 0xF9010001).Reads (.cont 0 1 0 1) ∧ (s 0xF1010001).Reads (.super 0 1 0 1) ∧
    (s 0xF7010001).Reads (.stkerr 0 1 0 1) ∧ (s 0xFA002001).Reads (.sysev 0 0 1 1) ∧
    (s 0x10000001).parser.nextWord = some (.frame, 0x10000001#32) := by decide

/-- A payload word `5` in phase `ph`, the module `mod`, its block cursor `b`. -/
def payloadAt (mod : ModuleShape) (ph : Phase) (b : Cursor) : State :=
  on (inUnit [[mod]] [5]) fun P => { inEvent ph ⟨0xF3010003, 3⟩ P with blockF := b }
theorem witness_PayloadWordsAreCopied :
    (∀ s ∈ [payloadAt ⟨2, 0, false⟩ .prefixPhase ⟨0, 0⟩, payloadAt ⟨1, 0, true⟩ .dynamicPhase ⟨0xF5000002, 2⟩],
      s.parser.nextWord = some (.frame, 5#32) ∧ 0 ≤ s.parser.eventIndex ∧ s.parser.stackF.left ≠ 0 ∧
      s.parser.used < s.params.scratchWords ∧ s.parser.currentModule.isSome = true) ∧
    ((nextOf (step (payloadAt ⟨2, 0, false⟩ .prefixPhase ⟨0, 0⟩))).map
      fun t => (t.parser.phase, t.parser.span 0)) = some (.prefixPhase, ⟨⟨0, 1⟩, ⟨0, 0⟩, ⟨0, 0⟩⟩) ∧
    ((nextOf (step (payloadAt ⟨1, 0, true⟩ .prefixPhase ⟨0, 0⟩))).map
      fun t => (t.parser.phase, t.parser.span 0)) = some (.dynamicPhase, ⟨⟨0, 1⟩, ⟨1, 0⟩, ⟨0, 0⟩⟩) ∧
    ((nextOf (step (payloadAt ⟨1, 1, false⟩ .prefixPhase ⟨0, 0⟩))).map
      fun t => (t.parser.phase, t.parser.span 0)) = some (.suffixPhase, ⟨⟨0, 1⟩, ⟨1, 0⟩, ⟨1, 0⟩⟩) ∧
    ((nextOf (step (payloadAt ⟨0, 1, true⟩ .dynamicPhase ⟨0xF5000002, 2⟩))).map
      fun t => (t.parser.phase, t.parser.blockF.left)) = some (.dynamicPhase, 1) ∧
    ((nextOf (step (payloadAt ⟨0, 1, true⟩ .dynamicPhase ⟨0xF5000002, 1⟩))).map
      fun t => (t.parser.phase, t.parser.span 0)) = some (.suffixPhase, ⟨⟨0, 0⟩, ⟨0, 1⟩, ⟨1, 0⟩⟩) ∧
    ((nextOf (step (payloadAt ⟨0, 2, false⟩ .suffixPhase ⟨0, 0⟩))).map
      fun t => (t.parser.phase, t.parser.span 0)) = some (.suffixPhase, ⟨⟨0, 0⟩, ⟨0, 0⟩, ⟨0, 1⟩⟩) := by decide +kernel
theorem witness_FullScratchAbandonsTheUnit :
    let s := on (payloadAt ⟨2, 0, false⟩ .prefixPhase ⟨0, 0⟩) fun P => { P with used := 4 }
    s.parser.nextWord = some (.frame, 5#32) ∧ 0 ≤ s.parser.eventIndex ∧ s.parser.stackF.left ≠ 0 ∧
    s.parser.used = s.params.scratchWords ∧ s.parser.phase ≠ .dynamicPhase := by decide
/-- A module completed by its prefix, its dynamic part or its suffix, alone in its row. -/
theorem witness_CompletedModulesGoOnOrEmit :
    (∀ x ∈ [(payloadAt ⟨1, 0, false⟩ .prefixPhase ⟨0, 0⟩, 1, 0, 0), (payloadAt ⟨0, 0, true⟩ .dynamicPhase ⟨0xF5000001, 1⟩, 0, 1, 0),
        (payloadAt ⟨0, 1, false⟩ .suffixPhase ⟨0, 0⟩, 0, 0, 1)],
      x.1.parser.nextWord = some (.frame, 5#32) ∧ 0 ≤ x.1.parser.eventIndex ∧ x.1.parser.eventIndex < 15 ∧
      x.1.parser.stackF.left ≠ 0 ∧ x.1.parser.used < x.1.params.scratchWords ∧
      x.1.parser.currentModule.isSome = true ∧
      (nextOf (step x.1)).map (fun t => t.parser.emitted) = some [.eventData 0 [⟨[5], 1, x.2.1, x.2.2.1, x.2.2.2⟩]]) ∧
    (payloadAt ⟨1, 0, false⟩ .prefixPhase ⟨0, 0⟩).parser.currentModule = some ⟨1, 0, false⟩ := by decide +kernel
/-- After the completed module, one `(0, 0, 0)` passed over and one entered; and the empty BlockRead that completes. -/
theorem witness_CompletedModulesGoOnOrEmit_next :
    let s := on (payloadAt ⟨1, 0, false⟩ .prefixPhase ⟨0, 0⟩) fun P =>
      { P with rs := [[⟨1, 0, false⟩, ⟨0, 0, false⟩, ⟨0, 0, true⟩]] }
    let t := on (inUnit [[⟨0, 0, true⟩]] [0xF5000000]) (inEvent .dynamicPhase ⟨0xF3010001, 1⟩)
    s.parser.modules[1]? = some ⟨0, 0, false⟩ ∧ s.parser.modules[2]? = some ⟨0, 0, true⟩ ∧
    (nextOf (step s)).map (fun u => (u.parser.moduleIndex, u.parser.phase, u.parser.span 2)) =
      some (2, .dynamicPhase, ⟨⟨1, 0⟩, ⟨1, 0⟩, ⟨1, 0⟩⟩) ∧
    t.Reads (.block 0 0 0 0) ∧ (0#4).getLsbD 3 = false ∧ t.parser.phase = .dynamicPhase ∧ t.parser.blockF.left = 0 ∧
    t.parser.currentModule = some ⟨0, 0, true⟩ ∧ (t.parser.span 0).suffixSpan.size = (0#8).toNat := by decide +kernel
/-- A section with Continue, and the three ways a chain goes on: whole, broken, cut by the unit's end. -/
theorem witness_SystemEventChainsAreEmittedOrDropped : OpenChain [0xFA802001, 7] ∧
    (∀ U ∈ [[0xFA802001#32, 7, 0xFA002000], [0xFA802001, 7, 0xF5000000], [0xFA802001, 7, 0xFA002001]],
      (inUnit [] U).Reads (.sysev 1 0 1 1) ∧ (inUnit [] U).parser.eventIndex < 0 ∧
      (inUnit [] U).parser.call.unit.drop (inUnit [] U).parser.call.rp = U) ∧
    payloadWords 0xFA002000 = 0 ∧ typeOf 0xF5000000 ≠ 0xFA#8 ∧ payloadWords 0xFA002001 = 1 :=
  ⟨.more _ [7] [] (by decide) (by decide) (by decide) .nil, by decide, by decide, by decide, by decide⟩
theorem witness_Eth0ChecksThePacketNumber :
    let s := on (inPacket (.ethHeader0 [packEth0 0 0 0 2, 0])) fun P => { P with lastPacketNumber := 4095, pktSeqValid := true }
    s.parser.call.stage = .ethHeader0 [packEth0 0 0 0 2, 0] ∧ 0#12 = s.parser.lastPacketNumber + 1 ∧
    s.parser.pktSeqValid = true ∧ 4095#12 ≠ s.parser.lastPacketNumber + 1 ∧
    (inPacket (.ethHeader0 [packEth0 0 0 0 2, 0])).parser.pktSeqValid = false := by decide
theorem witness_Eth1OpensThePacketsUnit :
    (inPacket (.ethHeader1 2 [packEth1 0 0xFFF, 1, 2])).parser.call.stage = .ethHeader1 2 [packEth1 0 0xFFF, 1, 2] ∧
    ((nextOf (exec (.eth1 0 1) (inPacket (.ethHeader1 2 [packEth1 0 1, 1, 2])))).map fun t => t.parser.call.rp) = some 1 ∧
    ((nextOf (exec (.eth1 0 2) (inPacket (.ethHeader1 2 [packEth1 0 2, 1, 2])))).map
      fun t => t.parser.counters.unusedBytes) = some 8 := by decide +kernel

theorem witness_HeaderWordsActOnlyWhereTheyStand : (fifo [0xF3000000]).AtHead (.stack 0 0 0 0) ∧
    positionOf (.stack 0 0 0 0) = .frame ∧ ¬ State.reset.Reads (.stack 0 0 0 0) ∧ ¬ State.reset.AtHead (.stack 0 0 0 0) ∧
    ¬ State.reset.Reads (.eth0 0 0 0 0) ∧ positionOf (.eth0 0 0 0 0) ≠ .frame := by decide
theorem witness_ReaderSkipsAndWaits : (fifo []).engine.fifo = [] ∧ (fifo []).engine.running = true ∧
    (fifo [0xF9000000]).engine.collecting = false ∧ isGoodHeader small 0xF9000000 = false ∧
    isGoodHeader small 0xF1000001 = true ∧ ([] : List Word).length < (0xF1000001#32).toNat % 2 ^ 13 := by decide
/-- A free slot; no payload; the wrong reference; a reply that fits and one a word too long. -/
theorem witness_SuperRepliesAreJudged :
    let s (slot : Slot 16) (ws : List Word) : State := engine fun T => { T with slotSuper := slot, fifo := ws }
    (s .free [packHeader 0xF1 0 0 1, 5]).engine.fifo = packHeader small.typeSuper 0 (0#4 ++ 0#3) 1 :: ([5] ++ []) ∧
    (nextOf (exec (.super 0 0 0 0) (s (.pending 5) [0xF1000000]))).map (fun t => t.engine.slotSuper) =
      some (.fulfilled (.err .referenceMismatch)) ∧
    (nextOf (exec (.super 0 0 0 1) (s (.pending 5) [0xF1000001, 6]))).map (fun t => t.engine.slotSuper) =
      some (.fulfilled (.err .referenceMismatch)) ∧
    (nextOf (exec (.super 0 0 0 2) (s (.pending 5) [0xF1000002, 5, 6]))).map (fun t => t.engine.slotSuper) =
      some (.fulfilled (.ok [5, 6])) ∧
    (nextOf (exec (.super 0 0 0 3) (s (.pending 5) [0xF1000003, 5, 6, 7]))).map (fun t => t.engine.slotSuper) =
      some (.fulfilled (.err .protocolError)) := by decide
theorem witness_StackRepliesOpenChains :
    let s (ws : List Word) : State := engine fun T => { T with slotStack := .pending 5, fifo := ws }
    (s [0xF3010001, 5]).engine.fifo = packHeader 0xF3#8 0 (1#4 ++ 0#3) 1 :: ([5] ++ []) ∧
    (nextOf (exec (.stack 0 1 0 2) (s [0xF3010002, 5, 6]))).map (fun t => t.engine.slotStack) =
      some (.fulfilled (.ok [5, 6])) ∧
    (nextOf (exec (.stack 8 1 0 3) (s [0xF3810003, 5, 6, 7]))).map
      (fun t => (t.engine.collecting, t.engine.chainWords, t.engine.chainOverflow)) = some (true, [5, 6], true) := by
  decide

theorem engineInv_collecting (ws : List Word) (h : ws.length ≤ 8192) : (collecting [5] ws).engine.Inv small where
  fifo := h
  chain := (by decide : 1 ≤ 2)
  notCollecting := fun h => nomatch h
  notBroken := rfl
  stopped := fun h => nomatch h
  superBounded := trivial
  stackBounded := trivial
  hist := Sparse.wf_nil 0
  histStacks := fun _ h => absurd h List.not_mem_nil

/-- While a chain of stack 1 is collected: a continuation that waits, one that goes on, one that ends it, and
two words that break it. -/
theorem witness_ContinuationsExtendTheChainOthersBreakIt :
    (collecting [5] [0xF9010001]).engine.Inv small ∧ (collecting [5] [0xF9010001]).engine.running = true ∧
    (collecting [5] [0xF9010001]).engine.fifo = packHeader 0xF9#8 0 (1#4 ++ 0#3) 1 :: [] ∧
    (nextOf (exec (.cont 8 1 0 1) (collecting [5] [0xF9810001, 6]))).map (fun t => t.engine.chainWords) =
      some [5, 6] ∧
    (nextOf (exec (.cont 0 1 0 1) (collecting [5] [0xF9010001, 6]))).map (fun t => t.engine.collecting) =
      some false ∧
    ¬ (typeOf 0xF9020001 = 0xF9#8 ∧ stackNumOf 0xF9020001 = 1#4) ∧
    ¬ (typeOf 0xF3010001 = 0xF9#8 ∧ stackNumOf 0xF3010001 = 1#4) :=
  ⟨engineInv_collecting _ (by decide), by decide, by decide, by decide, by decide, by decide, by decide⟩
/-- Stack 7 with a payload, stack 8, and a frame without payload. -/
theorem witness_StackErrorsAreCounted :
    (fifo [0xF7070001, 5]).engine.fifo = packHeader small.typeStackErr 0 (7#4 ++ 0#3) 1 :: ([5] ++ []) ∧
    ((nextOf (exec (.stkerr 0 8 0 1) (fifo [0xF7080001, 5]))).map fun t => t.engine.stackErrors.nonErrorFrames) = some 1 ∧
    ((nextOf (exec (.stkerr 0 7 0 0) (fifo [0xF7070000]))).map fun t => t.engine.stackErrors.nonErrorFrames) = some 1 ∧
    ((nextOf (exec (.stkerr 0 7 0 1) (fifo [0xF7070001, 5]))).map fun t => t.engine.stackErrors.count 7 5 0) = some 1 := by
  decide
theorem witness_TheReaderNeverSticks : small.legal = true ∧ (fifo [0xF1001FFF]).engine.running = true ∧
    (fifo [0xF1001FFF]).engine.fifo = 0xF1001FFF#32 :: [] := by decide

/-- A FIFO that one word fills, with and without a stop request, and a stopped engine. -/
theorem witness_DeliveriesAppendAtTheTail :
    let s (stop : Bool) : State := { engine (fun T => { T with fifo := [0], stopReq := stop }) with
      params := { small with cmdFifoWords := 2 } }
    (s false).engine.running = true ∧ (s false).engine.fifo.length + [1#32].length ≤ (s false).params.cmdFifoWords ∧
    (s false).engine.stopReq = false ∧ (s true).engine.stopReq = true ∧
    (s false).params.cmdFifoWords < (s false).engine.fifo.length + [1#32, 2].length ∧
    (engine fun T => { T with running := false }).engine.running = false := by decide
theorem witness_TransportAndHostEventsHaveTheirEffect :
    State.reset.engine.running = true ∧ State.reset.engine.stopReq = false ∧
    (engine fun T => { T with stopReq := true }).engine.stopReq = true ∧
    (engine fun T => { T with running := false }).engine.running = false := by decide
theorem witness_CallersTakeTheirSlotAndItsResult :
    (withCaller (.super 5) .waitSlot id).callers[0]? = some ⟨.super 5, [0xAB], .waitSlot⟩ ∧
    (withCaller (.super 5) .waitSlot id).engine.slotSuper = .free ∧
    (withCaller (.stack 5) .waitSlot fun T => { T with slotStack := .pending 4 }).engine.slotStack ≠ .free ∧
    (withCaller (.stack 5) .waitDone fun T => { T with slotStack := .fulfilled (.ok []) }).callers[0]? =
      some ⟨.stack 5, [0xAB], .waitDone⟩ ∧
    (withCaller (.stack 5) .waitDone fun T => { T with slotStack := .pending 5 }).engine.slotStack ≠
      .fulfilled (.ok []) ∧
    (withCaller (.super 5) .waitSlot fun T => { T with running := false }).engine.running = false ∧
    (withCaller (.stack 5) .start id).callers[0]? = some ⟨.stack 5, [0xAB], .start⟩ := by decide
theorem witness_WritingEndsAsTheTransportSays :
    (withCaller (.super 5) .writing fun T => { T with slotSuper := .pending 5 }).callers[0]? =
      some ⟨.super 5, [0xAB], .writing⟩ ∧
    (withCaller (.stack 5) .writing fun T => { T with slotStack := .pending 5 }).engine.slotStack.isPending = true ∧
    (withCaller (.stack 5) .writing fun T => { T with slotStack := .fulfilled (.ok []) }).engine.slotStack =
      .fulfilled (.ok []) := by decide

theorem witness_WordByWordIsTheAtomicCall : (session [[⟨1, 0, false⟩]]).parser.session = true ∧
    (session [[⟨1, 0, false⟩]]).parser.callOpen = false := by decide
/-- A unit at its first word, which is an error that is not consumed, so that it is met twice. -/
theorem witness_EveryUnitIsWalkedToItsEnd :
    let P := (on (inUnit [[⟨2, 0, false⟩]] [0xF5000000]) (inEvent .prefixPhase ⟨0xF3810001, 0⟩)).parser
    P.call.rp ≤ P.call.unit.length ∧ P.call.unit[P.call.rp]? = some 0xF5000000#32 ∧
    (P.iteration small 0xF5000000).call.unit[(P.iteration small 0xF5000000).call.rp]? = some 0xF5000000#32 ∧
    ((P.iteration small 0xF5000000).iteration small 0xF5000000).call.rp = 1 := by decide +kernel

/-- In the middle of a USB unit, an event of two prefix words begun: nothing of it read yet. -/
def midEvent : State := on (inUnit [[⟨2, 0, false⟩]] [5]) (inEvent .prefixPhase ⟨0xF3010002, 2⟩)

theorem midEvent_inv : midEvent.Inv where
  parser := ⟨fun P h => by
   obtain rfl : P = midEvent.parser := List.mem_singleton.mp h
   exact {
    table := by decide
    idle := fun h => absurd h (by decide)
    event := fun _ => ⟨
      { event := by decide, modIdx := by decide
        unsettled := ⟨⟨2, 0, false⟩, by decide, by show 0 < 2; decide⟩
        stackType := by decide, stackNum := by decide, blockType := .inl rfl },
      { before := fun m h => absurd h (Nat.not_lt_zero m)
        starts := fun m h => by obtain rfl : m = 0 := Nat.le_zero.mp h; decide
        current := fun _ _ => ⟨by decide, by decide, by decide⟩
        used := by decide }⟩
    scratch := ⟨by decide, by decide⟩
    canonical := ⟨.nil, Sparse.wf_nil _, Sparse.wf_nil _⟩
    call := ⟨by decide, rfl⟩ }, fun _ h => absurd h List.not_mem_nil⟩
  engine := fun c h => by
    obtain rfl : c = ⟨.constructed, []⟩ :=
      List.mem_singleton.mp h
    exact {
      fifo := by decide, chain := by decide, notCollecting := fun _ => ⟨rfl, rfl⟩, notBroken := rfl
      stopped := fun h => absurd h (by decide), superBounded := trivial, stackBounded := trivial
      hist := Sparse.wf_nil 0, histStacks := fun _ h => absurd h List.not_mem_nil }
  exclusion := fun c h => by
    obtain rfl : c = ⟨.constructed, []⟩ :=
      List.mem_singleton.mp h
    exact ⟨rfl, rfl⟩

theorem midEvent_stays : midEvent.StaysInSession ∧ midEvent.StaysAtEngine := by
  have h : midEvent.fetch = .word .frame 5 := by decide
  simp [State.StaysInSession, State.StaysAtEngine, h]
/-- The steps that leave the session: a reset, and a turn to another one. -/
def leaving (e : Event) : State := { session [] with schedule := [e], otherSessions := [.afterReset true [[]]] }

theorem witness_UnreachableOutcomesStayUncounted : midEvent.Inv ∧ (nextOf (step midEvent)).isSome = true ∧
    midEvent.StaysInSession ∧
    (∀ P ∈ midEvent.sessions ++ (leaving (.turnToSession 0)).sessions, P.counters.parseResults.bufferNotAdvancing = 0 ∧
      P.counters.parseResults.unexpectedOpenBlockOnNewEvent = 0) ∧
    (nextOf (step (leaving (.turnToSession 0)))).map (fun t => (t.parser.rs, t.otherSessions.length)) = some ([[]], 1) :=
  ⟨midEvent_inv, by decide +kernel, midEvent_stays.1, by decide, by decide +kernel⟩
/-- The step that emits: the one word of a suffix. -/
theorem witness_EmittedEventsMatchTheTable : midEvent.Inv ∧ (nextOf (step midEvent)).isSome = true ∧
    midEvent.StaysInSession ∧ (∀ P ∈ midEvent.sessions, P.emitted = []) ∧
    ((nextOf (step (payloadAt ⟨0, 1, false⟩ .suffixPhase ⟨0, 0⟩))).map fun t => t.parser.emitted.length) = some 1 :=
  ⟨midEvent_inv, by decide +kernel, midEvent_stays.1, by decide, by decide +kernel⟩
theorem witness_StepsOnlyAppendOutputs : (nextOf (step midEvent)).isSome = true ∧
    midEvent.StaysInSession ∧ midEvent.StaysAtEngine ∧ (∀ P ∈ midEvent.sessions, P.session = true) ∧
    (nextOf (step (leaving (.op (.sessionReset []))))).map (fun t => t.otherSessions.length) = some 2 :=
  ⟨by decide +kernel, midEvent_stays.1, midEvent_stays.2, by decide, by decide +kernel⟩
theorem witness_StoppedEnginesStayStoppedAndTheirCallersFinish :
    let s : State := { engine (fun T => { T with stopReq := true }) with schedule := [.op .rxTimeout] }
    s.engine.running = true ∧ (nextOf (step s)).map (fun t => t.engine.running) = some false ∧
    s.StaysAtEngine ∧
    (nextOf (step (engine fun T => { T with running := false }))).map (fun t => t.engine.running) = some false := by
  refine ⟨by decide, by decide, ⟨fun es h => ?_, fun k es h => ?_⟩, by decide⟩ <;> cases h
/-- A stopped engine with a caller whose write has not returned and one that waits for its slot. -/
def stopped : State :=
  { engine (fun T => { T with running := false, slotSuper := .fulfilled (.err .disconnected) }) with
    callers := [⟨.super 5, [], .writing⟩, ⟨.super 6, [], .waitSlot⟩] }
theorem witness_StoppedEnginesStayStoppedAndTheirCallersFinish_callers : stopped.engine.running = false ∧
    stopped.engineInv ∧ stopped.exclusion ∧ 0 < stopped.callers.length := by
  refine ⟨rfl, fun c h => ?_, fun c h => ?_, by decide⟩
  · obtain rfl : c = stopped.correlator :=
      List.mem_singleton.mp h
    exact {
      fifo := by decide, chain := by decide, notCollecting := fun _ => ⟨rfl, rfl⟩, notBroken := rfl
      stopped := fun _ => ⟨rfl, rfl, rfl, rfl⟩, superBounded := trivial, stackBounded := trivial
      hist := Sparse.wf_nil 0, histStacks := fun _ h => absurd h List.not_mem_nil }
  · obtain rfl : c = stopped.correlator :=
      List.mem_singleton.mp h
    exact ⟨⟨_, rfl⟩, rfl⟩
theorem witness_StepKeepsTheParserInvariant : midEvent.params.legal = true ∧ midEvent.parserInv ∧
    (nextOf (step midEvent)).isSome = true := ⟨by decide, midEvent_inv.parser, by decide +kernel⟩
theorem witness_StepKeepsTheEngineInvariant : (collecting [5] [0xF9010001, 6]).engineInv ∧
    (nextOf (step (collecting [5] [0xF9010001, 6]))).isSome = true := by
  refine ⟨fun c h => ?_, by decide⟩
  obtain rfl : c = (collecting [5] [0xF9010001, 6]).correlator :=
      List.mem_singleton.mp h
  exact engineInv_collecting _ (by decide)
theorem witness_StepKeepsMutualExclusion :
    let s := { withCaller (.super 5) .writing (fun T => { T with slotSuper := .pending 5 }) with schedule := [.caller 0 false] }
    s.exclusion ∧ (nextOf (step s)).map (fun t => t.engine.slotSuper) = some .free := by
  refine ⟨fun c h => ?_, by decide⟩
  obtain rfl : c = ⟨{ Engine.constructed with slotSuper := .pending 5 }, [⟨.super 5, [0xAB], .writing⟩]⟩ :=
      List.mem_singleton.mp h
  exact ⟨⟨_, rfl, rfl⟩, rfl⟩

end Sys2Proof.Tests
end

