-- ==== Sys2Proof/Proofs/FrameCodec.lean ====
section
/-! SUPPORT. The frame codec (40_frame_codec.md): the fields of a word and the packed word as numbers, what the two tests
of the type byte say, what each codec operation does to the state, and the statements O4, O5 and O6. -/

namespace Sys2Proof

/-! ## Fields at the two ends of a word (R8) -/

/-- A field that reaches bit 31 needs no mask. -/
theorem toNat_field_top (w : Word) (lo n : Nat) (h : 32 ≤ lo + n) : (field w lo n).toNat = w.toNat / 2 ^ lo := by
  have hlt : w.toNat / 2 ^ lo < 2 ^ n := by
    rw [Nat.div_lt_iff_lt_mul (Nat.two_pow_pos lo), ← Nat.pow_add]
    exact w.isLt.trans_le (Nat.pow_le_pow_right Nat.two_pos (by omega))
  rw [toNat_field, Nat.mod_eq_of_lt hlt]

/-- A field that starts at bit 0 needs no shift. -/
theorem toNat_field_bottom (w : Word) (n : Nat) : (field w 0 n).toNat = w.toNat % 2 ^ n := by
  rw [toNat_field, Nat.pow_zero, Nat.div_one]

theorem toNat_typeOf (w : Word) : (typeOf w).toNat = w.toNat / 2 ^ 24 :=
  toNat_field_top w 24 8 (by decide)

theorem toNat_lengthOf (w : Word) : (lengthOf w).toNat = w.toNat % 2 ^ 13 :=
  toNat_field_bottom w 13

theorem typeOf_eq_iff (w : Word) (t : BitVec 8) : typeOf w = t ↔ w.toNat / 2 ^ 24 = t.toNat := by
  rw [← BitVec.toNat_inj, toNat_typeOf]

/-! ## The packed header (R100, R141) -/

theorem toNat_packHeader (t : BitVec 8) (f : BitVec 4) (n : BitVec 7) (l : BitVec 13) :
    (packHeader t f n l).toNat = t.toNat * 2 ^ 24 + f.toNat * 2 ^ 20 + n.toNat * 2 ^ 13 + l.toNat := by
  simp only [packHeader, toNat_append]
  ring

theorem toNat_encodeHeader (type flags id length : Nat) :
    (encodeHeader type flags id length).toNat =
      type % 2 ^ 8 * 2 ^ 24 + flags % 2 ^ 4 * 2 ^ 20 + id % 2 ^ 7 * 2 ^ 13 + length % 2 ^ 13 := by
  simp only [encodeHeader, toNat_packHeader, BitVec.toNat_ofNat]

/-! ## The tests of the type byte (R142, R143) -/

theorem isGoodHeader_iff (p : Params) (w : Word) : isGoodHeader p w = true ↔
    typeOf w = p.typeSuper ∨ typeOf w = 0xF3#8 ∨ typeOf w = p.typeStackErr := by
  simp [isGoodHeader, or_assoc]

/-- The type codes that carry a name (R101); NotRecognized names all the codes left over. -/
def HasKind (p : Params) (t : BitVec 8) : FrameKind → Prop
  | .superFrame => t = p.typeSuper
  | .stackFrame => t = 0xF3#8
  | .blockRead => t = 0xF5#8
  | .stackError => t = p.typeStackErr
  | .stackContinuation => t = 0xF9#8
  | .systemEvent => t = 0xFA#8
  | .notRecognized => t ≠ p.typeSuper ∧ t ≠ 0xF3#8 ∧ t ≠ 0xF5#8 ∧ t ≠ p.typeStackErr ∧ t ≠ 0xF9#8 ∧ t ≠ 0xFA#8

theorem hasKind_frameKind (p : Params) (t : BitVec 8) : HasKind p t (frameKind p t) := by
  have h := frameKind_type p t
  cases hk : frameKind p t <;> rw [hk] at h <;> exact h

/-- Distinct codes make the order of the tests in `frame_kind` immaterial: each name is decided by its own code. -/
theorem frameKind_eq_iff {p : Params} (h : p.legal = true) (t : BitVec 8) (k : FrameKind) :
    frameKind p t = k ↔ HasKind p t k := by
  constructor
  · rintro rfl
    exact hasKind_frameKind p t
  · intro ht
    cases k with
    | superFrame => exact (congrArg _ ht).trans frameKind_super
    | stackFrame => exact (congrArg _ ht).trans (frameKind_stack h)
    | blockRead => exact (congrArg _ ht).trans (frameKind_block h)
    | stackError => exact (congrArg _ ht).trans (frameKind_stackErr h)
    | stackContinuation => exact (congrArg _ ht).trans (frameKind_cont h)
    | systemEvent => exact (congrArg _ ht).trans (frameKind_sysEvent h)
    | notRecognized =>
      obtain ⟨hsuper, hstack, hblock, herr, hcont, hsys⟩ := ht
      simp only [frameKind, if_neg hsuper, if_neg hstack, if_neg hblock, if_neg herr, if_neg hcont, if_neg hsys]

end Sys2Proof

namespace Sys2Proof.Machine

/-! ## What each codec operation does to the state: it writes the result (R149) -/

section
variable (s : State)

theorem exec_decodeHeader (w : Word) :
    exec (.decodeHeader w) s = .next { s with result := .header (decodeHeader s.params w) } := rfl

theorem exec_encodeHeader (type flags id length : Nat) :
    exec (.encodeHeader type flags id length) s =
      .next { s with result := .word (encodeHeader type flags id length) } := rfl

theorem exec_isGoodHeader (w : Word) :
    exec (.isGoodHeader w) s = .next { s with result := .bool (isGoodHeader s.params w) } := rfl

theorem exec_frameKind (t : BitVec 8) :
    exec (.frameKind t) s = .next { s with result := .kind (frameKind s.params t) } := rfl

theorem exec_decodeSyseventHeader (w : Word) :
    exec (.decodeSyseventHeader w) s = .next { s with result := .sysEvent (decodeSysEventHeader w) } := rfl

theorem exec_decodeEthHeader (w0 w1 : Word) :
    exec (.decodeEthHeader w0 w1) s = .next { s with result := .eth (decodeEthHeader w0 w1) } := rfl

end

/-! ## The statements -/

/-- Settles O4: each field of each record is a field of the word, read as a number. -/
theorem decodersReadTheFields : Obligations.DecodersReadTheFields := by
  intro s w w1
  refine ⟨⟨_, exec_decodeHeader s w, ?type, ?flags, ?id, ?length, exec_frameKind s (typeOf w)⟩,
    ⟨_, exec_decodeSyseventHeader s w, ?continueBit, ?ctrlId, ?subtype, ?sysLength⟩,
    ⟨_, exec_decodeEthHeader s w w1, ?channel, ?number, ?dataWords, ?timestamp, ?pointer⟩⟩
  case type => exact toNat_typeOf w
  case flags => exact toNat_field w 20 4
  case id => exact toNat_field w 13 7
  case length => exact toNat_lengthOf w
  case continueBit => exact toNat_field w 23 1
  case ctrlId => exact toNat_field w 20 3
  case subtype => exact toNat_field w 13 7
  case sysLength => exact toNat_lengthOf w
  case channel => exact toNat_field_top w 28 4 (by decide)
  case number => exact toNat_field w 16 12
  case dataWords => exact toNat_field_bottom w 13
  case timestamp => exact toNat_field_top w1 12 20 (by decide)
  case pointer => exact toNat_field_bottom w1 12

/-- Settles O5. -/
theorem encodeHeaderMasksAndPacks : Obligations.EncodeHeaderMasksAndPacks := fun s type flags id length =>
  ⟨_, exec_encodeHeader s type flags id length, toNat_encodeHeader type flags id length⟩

/-- Settles O6: the type byte is the word's value above bit 24, and each name is decided by its own code. -/
theorem headerTestsReadTheType : Obligations.HeaderTestsReadTheType := by
  intro s w t hp
  have hgood : isGoodHeader s.params w = true ↔ w.toNat / 2 ^ 24 = s.params.typeSuper.toNat ∨
      w.toNat / 2 ^ 24 = 0xF3 ∨ w.toNat / 2 ^ 24 = s.params.typeStackErr.toNat := by
    rw [isGoodHeader_iff, typeOf_eq_iff, typeOf_eq_iff, typeOf_eq_iff]
    rfl
  have hkind := frameKind_eq_iff hp t
  exact ⟨⟨_, exec_isGoodHeader s w, hgood⟩, _, exec_frameKind s t, hkind .superFrame, hkind .stackFrame,
    hkind .blockRead, hkind .stackError, hkind .stackContinuation, hkind .systemEvent, hkind .notRecognized⟩

end Sys2Proof.Machine
end

/-! # Header words as bytes, and the SystemEvent codec (O1, O2, O3, O7) -/

namespace Sys2Proof.Machine

/-- Settles O1. -/
theorem sampleWordsDecode : Obligations.SampleWordsDecode :=
  ⟨rfl, rfl, rfl, rfl, rfl, rfl, rfl, rfl⟩

/-! ## Bytes (R71) -/

/-- Every instruction with a header word is read back from it, at its own position. -/
theorem decodeAt_of_encode {p : Params} {i : Instr} {w : Word} (hp : p.legal = true) (hw : encode p i = some w) :
    decodeAt p (positionOf i) w = .ok i := by
  have h : Laws.EncodesAtItsPosition.Statement i := by
    cases i with
    | stack f s c l => exact Laws.EncodesAtItsPosition.stack f s c l
    | cont f s c l => exact Laws.EncodesAtItsPosition.cont f s c l
    | block f s c l => exact Laws.EncodesAtItsPosition.block f s c l
    | super f s c l => exact Laws.EncodesAtItsPosition.super f s c l
    | stkerr f s c l => exact Laws.EncodesAtItsPosition.stkerr f s c l
    | sysev b c t l => exact Laws.EncodesAtItsPosition.sysev b c t l
    | eth0 c n g d => exact Laws.EncodesAtItsPosition.eth0 c n g d
    | eth1 t h => exact Laws.EncodesAtItsPosition.eth1 t h
    | _ => cases hw
  exact h p w hp hw

/-- The instructions with a header word are those the encoder answers for. -/
theorem exists_encode_of_isHeaderWord (p : Params) {i : Instr} (h : isHeaderWord i = true) :
    ∃ w, encode p i = some w := by
  have hsome : (encode p i).isSome = isHeaderWord i := by cases i <;> rfl
  exact Option.isSome_iff_exists.mp (hsome.trans h)

/-- The four bytes of a word decode as the word does, and the stream after them is left. -/
theorem decodeBytes_bytesOfWord (p : Params) (pos : Position) (w : Word) (rest : List Byte) :
    decodeBytes p pos (bytesOfWord p.byteOrder w ++ rest) = (decodeAt p pos w).map (fun i => (i, rest)) := by
  obtain ⟨b0, b1, b2, b3, hb, hw⟩ := bytesOfWord_spec p.byteOrder w
  rw [hb, ← hw]
  simp only [decodeBytes, List.cons_append, List.nil_append]
  cases decodeAt p pos (wordOfBytes p.byteOrder b0 b1 b2 b3) <;> rfl

theorem length_bytesOfWord (o : ByteOrder) (w : Word) : (bytesOfWord o w).length = 4 := by
  cases o <;> rfl

/-- Settles O2: the bytes of a word decode as the word, and the word of an instruction decodes to it. -/
theorem headerWordsRoundTrip : Obligations.HeaderWordsRoundTrip := by
  intro p i hp hi
  obtain ⟨w, hw⟩ := exists_encode_of_isHeaderWord p hi
  refine ⟨bytesOfWord p.byteOrder w, by simp [encodeBytes, hw], length_bytesOfWord _ w, fun rest => ?_⟩
  rw [decodeBytes_bytesOfWord, decodeAt_of_encode hp hw]
  rfl

/-- A word is refused only at a frame position, and there exactly where its type has no name (R111). -/
theorem decodeAt_eq_error_iff (p : Params) (pos : Position) (w : Word) (e : DecodeError) :
    decodeAt p pos w = .error e ↔
      pos = .frame ∧ frameKind p (typeOf w) = .notRecognized ∧ e = .notRecognizedType (typeOf w) := by
  cases pos with
  | frame =>
    simp only [decodeAt, decodeFrameWord, true_and]
    cases frameKind p (typeOf w) <;> simp [eq_comm]
  | ethWord0 => simp [decodeAt]
  | ethWord1 => simp [decodeAt]

/-- Settles O3. -/
theorem decodedBytesReencode : Obligations.DecodedBytesReencode := by
  intro p pos b0 b1 b2 b3 rest
  have hdec := decodeBytes_bytesOfWord p pos (wordOfBytes p.byteOrder b0 b1 b2 b3) rest
  rw [bytesOfWord_wordOfBytes] at hdec
  simp only [List.cons_append, List.nil_append] at hdec
  rw [hdec]
  constructor
  · intro i r h
    cases hd : decodeAt p pos (wordOfBytes p.byteOrder b0 b1 b2 b3) with
    | error e => rw [hd] at h; cases h
    | ok j =>
      rw [hd] at h
      cases h
      obtain ⟨henc, hpos, hwf⟩ := encode_decodeAt p pos _ i hd
      exact ⟨rfl, hpos, hwf, by rw [encodeBytes, henc, Option.map_some, bytesOfWord_wordOfBytes]⟩
  · intro e
    rw [← decodeAt_eq_error_iff]
    cases decodeAt p pos (wordOfBytes p.byteOrder b0 b1 b2 b3) <;> simp [Except.map]

/-! ## SystemEvent headers and the Continue bit (R146, R147) -/

theorem toNat_packSysEventHeader (c : BitVec 1) (k : BitVec 3) (t : BitVec 7) (l : BitVec 13) :
    (packSysEventHeader c k t l).toNat =
      0xFA * 2 ^ 24 + c.toNat * 2 ^ 23 + k.toNat * 2 ^ 20 + t.toNat * 2 ^ 13 + l.toNat := by
  simp only [packSysEventHeader, toNat_append, BitVec.toNat_ofNat]
  ring

/-- Decoding gives a packed SystemEvent header's fields back. -/
theorem decodeSysEventHeader_packSysEventHeader (c : BitVec 1) (k : BitVec 3) (t : BitVec 7) (l : BitVec 13) :
    decodeSysEventHeader (packSysEventHeader c k t l) = ⟨c, k, t, l⟩ := by
  simp [decodeSysEventHeader]

theorem hasContinue_iff (w : Word) : hasContinue w = true ↔ w.toNat / 2 ^ 23 % 2 = 1 := by
  rw [hasContinue, beq_iff_eq, ← BitVec.toNat_inj, toNat_field]
  rfl

/-- Settles O7. -/
theorem sysEventHeadersPackAndContinueIsBit23 : Obligations.SysEventHeadersPackAndContinueIsBit23 := by
  intro s
  refine ⟨fun c k t l => ⟨encodeSysEventHeader c k t l, rfl, ?_, ?_⟩, fun w => ⟨hasContinue w, rfl, hasContinue_iff w⟩⟩
  · rw [encodeSysEventHeader, toNat_packSysEventHeader]
    simp only [BitVec.toNat_ofNat, Nat.pow_one]
  · rw [exec_decodeSyseventHeader, encodeSysEventHeader, decodeSysEventHeader_packSysEventHeader]

end Sys2Proof.Machine

/-! # The readout structure builder (O8, O9, O10) -/

namespace Sys2Proof.Machine

/-! ## One module (R162) -/

/-- Both counts fit their eight bits (R162, R164). -/
abbrev BuildState.Fits (b : BuildState) : Prop := b.prefixLen ≤ 255 ∧ b.suffixLen ≤ 255

/-- `n` more output words: in the part before the block producer, or in the part after it (R162). -/
def BuildState.add (n : Nat) (b : BuildState) : BuildState :=
  if b.hasDynamic then { b with suffixLen := b.suffixLen + n } else { b with prefixLen := b.prefixLen + n }

@[simp] theorem BuildState.add_hasDynamic (n : Nat) (b : BuildState) : (b.add n).hasDynamic = b.hasDynamic := by
  unfold BuildState.add; split <;> rfl

@[simp] theorem BuildState.add_accu (n : Nat) (b : BuildState) : (b.add n).accu = b.accu := by
  unfold BuildState.add; split <;> rfl

@[simp] theorem BuildState.add_zero (b : BuildState) : b.add 0 = b := by
  unfold BuildState.add; split <;> rfl

/-- The accumulator set or used up (R162). -/
def BuildState.withAccu (a : Bool) (b : BuildState) : BuildState := { b with accu := a }

@[simp] theorem BuildState.withAccu_accu (a : Bool) (b : BuildState) : (b.withAccu a).accu = a := rfl

@[simp] theorem BuildState.withAccu_self (b : BuildState) : b.withAccu b.accu = b := rfl

@[simp] theorem BuildState.withAccu_withAccu (a c : Bool) (b : BuildState) :
    (b.withAccu c).withAccu a = b.withAccu a := rfl

@[simp] theorem BuildState.fits_withAccu (a : Bool) (b : BuildState) : (b.withAccu a).Fits ↔ b.Fits := .rfl

@[simp] theorem BuildState.add_withAccu (n : Nat) (b : BuildState) (a : Bool) :
    (b.withAccu a).add n = (b.add n).withAccu a := by
  unfold BuildState.add BuildState.withAccu; dsimp only; split <;> rfl

theorem BuildState.add_before (p s n : Nat) (a : Bool) :
    (⟨p, s, false, a⟩ : BuildState).add n = ⟨p + n, s, false, a⟩ := rfl

theorem BuildState.add_after (p s n : Nat) (a : Bool) :
    (⟨p, s, true, a⟩ : BuildState).add n = ⟨p, s + n, true, a⟩ := rfl

theorem BuildState.add_add (n k : Nat) (b : BuildState) : (b.add n).add k = b.add (n + k) := by
  cases h : b.hasDynamic <;> simp [BuildState.add, h, Nat.add_assoc]

theorem BuildState.Fits.of_add {n : Nat} {b : BuildState} (h : (b.add n).Fits) : b.Fits := by
  unfold BuildState.add at h
  split at h <;> obtain ⟨hp, hs⟩ := h <;> exact ⟨by simp only at *; omega, by simp only at *; omega⟩

/-- `single(n)` counts `n` words where they fit (R162). -/
theorem BuildState.single_eq (n : Nat) (b : BuildState) :
    b.single n = if (b.add n).Fits then some (b.add n) else none := by
  change (if 255 < (b.add n).prefixLen ∨ 255 < (b.add n).suffixLen then none else some (b.add n)) = _
  by_cases h : (b.add n).Fits
  · rw [if_pos h, if_neg (by omega)]
  · rw [if_neg h, if_pos (by omega)]

/-- The command is no read that is, or becomes, a block producer under an accumulator `accu` (R160, R162). -/
def CountsUnder (accu : Bool) (c : Command) : Prop := c.isQuiet = true ∨ c.isPlain = true ∧ accu = false

/-- A plain command is not SetAccu. -/
theorem setAccu_ne_of_isPlain {c : Command} (h : c.isPlain = true) : (Command.setAccu == c) = false := by
  have hne : Command.setAccu ≠ c := by rintro rfl; cases h
  exact beq_eq_false_iff_ne.mpr hne

theorem contains_setAccu_of_plain {cs : List Command} (h : cs.all Command.isPlain = true) :
    cs.contains .setAccu = false := by
  rw [List.contains_eq_any_beq, List.any_eq_false]
  intro c hc
  simp [setAccu_ne_of_isPlain (List.all_eq_true.mp h c hc)]

/-- A command that is no block producer counts its output words, and only SetAccu touches the accumulator. -/
theorem BuildState.command_of_counts {b : BuildState} {c : Command} (hb : b.Fits) (hc : CountsUnder b.accu c) :
    b.command c = if (b.add c.outputs).Fits then
      some ((b.add c.outputs).withAccu (b.accu || Command.setAccu == c)) else none := by
  have hsame (n : Nat) : (b.add n).withAccu b.accu = b.add n := by
    rw [← BuildState.add_accu n b, BuildState.withAccu_self]
  cases c with
  | vmeRead =>
    obtain hq | ⟨-, ha⟩ := hc
    · cases hq
    · rw [BuildState.command, if_neg (by simp [ha]), BuildState.single_eq, setAccu_ne_of_isPlain rfl,
        Bool.or_false, hsame]
      rfl
  | vmeBlockRead => obtain hq | ⟨hp, -⟩ := hc <;> contradiction
  | writeMarker =>
    rw [BuildState.command, BuildState.single_eq, setAccu_ne_of_isPlain rfl, Bool.or_false, hsame]
    rfl
  | writeSpecial =>
    rw [BuildState.command, BuildState.single_eq, setAccu_ne_of_isPlain rfl, Bool.or_false, hsame]
    rfl
  | custom n =>
    rw [BuildState.command, BuildState.single_eq, setAccu_ne_of_isPlain rfl, Bool.or_false, hsame]
    rfl
  | setAccu => simp [BuildState.command, Command.outputs, hb, BuildState.withAccu]
  | other => simp [BuildState.command, Command.outputs, hb, show (Command.setAccu == .other) = false from rfl]

theorem BuildState.walk_append (b : BuildState) (cs ds : List Command) :
    b.walk (cs ++ ds) = (b.walk cs).bind (fun c => c.walk ds) := by
  induction cs generalizing b with
  | nil => rfl
  | cons c cs ih =>
    simp only [List.cons_append, BuildState.walk]
    cases b.command c with
    | none => rfl
    | some d => exact ih d

/-- Commands none of which is a block producer count their output words together. -/
theorem BuildState.walk_of_counts {b : BuildState} {cs : List Command} (hb : b.Fits)
    (hc : cs.all Command.isQuiet = true ∨ cs.all Command.isPlain = true ∧ b.accu = false) :
    b.walk cs = if (b.add (outputWords cs)).Fits then
      some ((b.add (outputWords cs)).withAccu (b.accu || cs.contains .setAccu)) else none := by
  induction cs generalizing b with
  | nil => simp [BuildState.walk, outputWords, hb]
  | cons c cs ih =>
    have hfirst : CountsUnder b.accu c := by
      rcases hc with hq | ⟨hp, ha⟩
      · exact .inl (List.all_eq_true.mp hq c List.mem_cons_self)
      · exact .inr ⟨List.all_eq_true.mp hp c List.mem_cons_self, ha⟩
    have hrest : cs.all Command.isQuiet = true ∨
        cs.all Command.isPlain = true ∧ (b.accu || Command.setAccu == c) = false := by
      rcases hc with hq | ⟨hp, ha⟩
      · exact .inl (List.all_cons ▸ hq |> Bool.and_eq_true_iff.mp |>.2)
      · obtain ⟨hpc, hps⟩ := Bool.and_eq_true_iff.mp (List.all_cons ▸ hp)
        exact .inr ⟨hps, by rw [ha, setAccu_ne_of_isPlain hpc]; rfl⟩
    have hsum : outputWords (c :: cs) = c.outputs + outputWords cs := by simp [outputWords]
    rw [BuildState.walk, BuildState.command_of_counts hb hfirst, hsum, ← BuildState.add_add]
    by_cases hfit : (b.add c.outputs).Fits
    · rw [if_pos hfit, Option.bind_some, ih ((BuildState.fits_withAccu ..).mpr hfit) (by simpa using hrest)]
      rw [List.contains_cons]
      simp only [BuildState.add_withAccu, BuildState.fits_withAccu, BuildState.withAccu_accu,
        BuildState.withAccu_withAccu, Bool.or_assoc]
    · rw [if_neg hfit, Option.bind_none, if_neg fun h => hfit h.of_add]

/-- The block producers of R162 and D22, each with the commands in it whose words are counted. -/
def blockProducers (mid : List Command) : List (List Command × List Command) :=
  [([.vmeBlockRead], []), (.setAccu :: (mid ++ [.vmeRead]), mid), (.setAccu :: (mid ++ [.vmeBlockRead]), mid)]

/-- The module has its dynamic part, and the accumulator is used up (R162). -/
def BuildState.producing (b : BuildState) : BuildState := { b with hasDynamic := true, accu := false }

/-- A read that the accumulator makes a block producer, or a block read: the module gets its dynamic part. -/
theorem BuildState.command_producer (b : BuildState) (c : Command)
    (hc : c = .vmeBlockRead ∨ c = .vmeRead ∧ b.accu = true) :
    b.command c = if b.hasDynamic then none else some b.producing := by
  rcases hc with rfl | ⟨rfl, ha⟩
  · rfl
  · rw [BuildState.command, if_pos ha]; rfl

/-- An accumulator command, quiet commands, and the read that uses it up. -/
theorem BuildState.walk_accu {b : BuildState} {mid : List Command} {c : Command} (hb : b.Fits)
    (hm : mid.all Command.isQuiet = true) (hc : c = .vmeBlockRead ∨ c = .vmeRead) :
    b.walk (.setAccu :: (mid ++ [c])) = if (b.add (outputWords mid)).Fits then
      if b.hasDynamic then none else some ((b.add (outputWords mid)).producing)
      else none := by
  rw [BuildState.walk, BuildState.command, Option.bind_some, BuildState.walk_append,
    show ({ b with accu := true } : BuildState) = b.withAccu true from rfl,
    BuildState.walk_of_counts (b := b.withAccu true) hb (.inl hm), BuildState.add_withAccu]
  simp only [BuildState.fits_withAccu, BuildState.withAccu_accu, Bool.true_or, BuildState.withAccu_withAccu]
  by_cases hfit : (b.add (outputWords mid)).Fits
  · rw [if_pos hfit, if_pos hfit, Option.bind_some, BuildState.walk, BuildState.command_producer _ c (by tauto)]
    change (if (b.add (outputWords mid)).hasDynamic then none else
      some (b.add (outputWords mid)).producing).bind (BuildState.walk · []) = _
    rw [BuildState.add_hasDynamic]
    cases b.hasDynamic <;> rfl
  · rw [if_neg hfit, if_neg hfit]; rfl

/-- What a block producer does to a module: its words are counted before it, and a second one fails. -/
theorem BuildState.walk_producer {b : BuildState} {mid : List Command} {q : List Command × List Command}
    (hb : b.Fits) (hm : mid.all Command.isQuiet = true) (hq : q ∈ blockProducers mid) :
    b.walk q.1 = if (b.add (outputWords q.2)).Fits then
      if b.hasDynamic then none else some ((b.add (outputWords q.2)).producing)
      else none := by
  simp only [blockProducers, List.mem_cons, List.not_mem_nil, or_false] at hq
  rcases hq with rfl | rfl | rfl
  · rw [BuildState.walk, BuildState.command_producer b _ (.inl rfl)]
    cases b.hasDynamic <;> simp [BuildState.walk, outputWords, hb]
  · exact BuildState.walk_accu hb hm (.inr rfl)
  · exact BuildState.walk_accu hb hm (.inl rfl)

theorem BuildState.fits_start : BuildState.start.Fits := by decide

/-- Commands before the block producer: their words go into the first count. -/
theorem walk_before {p : Nat} {a : Bool} {cs : List Command} (hp : p ≤ 255)
    (hc : cs.all Command.isQuiet = true ∨ cs.all Command.isPlain = true ∧ a = false) :
    BuildState.walk ⟨p, 0, false, a⟩ cs = if p + outputWords cs ≤ 255 then
      some ⟨p + outputWords cs, 0, false, a || cs.contains .setAccu⟩ else none := by
  rw [BuildState.walk_of_counts ⟨hp, Nat.zero_le _⟩ hc, BuildState.add_before]
  simp [BuildState.Fits, BuildState.withAccu]

/-- Commands after the block producer: their words go into the second count. -/
theorem walk_after {p s : Nat} {a : Bool} {cs : List Command} (hp : p ≤ 255) (hs : s ≤ 255)
    (hc : cs.all Command.isQuiet = true ∨ cs.all Command.isPlain = true ∧ a = false) :
    BuildState.walk ⟨p, s, true, a⟩ cs = if s + outputWords cs ≤ 255 then
      some ⟨p, s + outputWords cs, true, a || cs.contains .setAccu⟩ else none := by
  rw [BuildState.walk_of_counts ⟨hp, hs⟩ hc, BuildState.add_after]
  simp [BuildState.Fits, BuildState.withAccu, hp]

/-- The words up to and with the first block producer (R162). -/
theorem walk_through_producer {a mid : List Command} {q : List Command × List Command}
    (ha : a.all Command.isPlain = true) (hm : mid.all Command.isQuiet = true) (hq : q ∈ blockProducers mid) :
    BuildState.start.walk (a ++ q.1) = if outputWords a + outputWords q.2 ≤ 255 then
      some ⟨outputWords a + outputWords q.2, 0, true, false⟩ else none := by
  rw [BuildState.walk_append, BuildState.start, walk_before (Nat.zero_le _) (.inr ⟨ha, rfl⟩), Nat.zero_add]
  by_cases hfit : outputWords a ≤ 255
  · rw [if_pos hfit, Option.bind_some, BuildState.walk_producer ⟨hfit, Nat.zero_le _⟩ hm hq, BuildState.add_before]
    simp [BuildState.Fits, BuildState.producing]
  · rw [if_neg hfit, Option.bind_none, if_neg (by omega)]

/-- The words up to the end of what follows the first block producer (R162). -/
theorem walk_beyond_producer {a b mid : List Command} {q : List Command × List Command}
    (ha : a.all Command.isPlain = true) (hb : b.all Command.isPlain = true) (hm : mid.all Command.isQuiet = true)
    (hq : q ∈ blockProducers mid) (ds : List Command) :
    BuildState.start.walk (a ++ q.1 ++ b ++ ds) =
      if outputWords a + outputWords q.2 ≤ 255 ∧ outputWords b ≤ 255 then
        BuildState.walk ⟨outputWords a + outputWords q.2, outputWords b, true, false⟩ ds else none := by
  rw [BuildState.walk_append, BuildState.walk_append, walk_through_producer ha hm hq]
  by_cases hbefore : outputWords a + outputWords q.2 ≤ 255
  · rw [if_pos hbefore, Option.bind_some, walk_after hbefore (Nat.zero_le _) (.inr ⟨hb, rfl⟩), Nat.zero_add,
      contains_setAccu_of_plain hb]
    by_cases hafter : outputWords b ≤ 255
    · rw [if_pos hafter, if_pos ⟨hbefore, hafter⟩]; rfl
    · rw [if_neg hafter, if_neg fun h => hafter h.2]; rfl
  · rw [if_neg hbefore, if_neg fun h => hbefore h.1]; rfl

/-- Settles O9. -/
theorem buildModuleCountsTheWords : Obligations.BuildModuleCountsTheWords := by
  intro a b mid tail c ha hb hm ht
  refine ⟨?plain, fun q hq => ⟨?once, fun second hs => ?twice⟩⟩
  case plain =>
    rw [buildModule, BuildState.walk_append, BuildState.start, walk_before (Nat.zero_le _) (.inr ⟨ha, rfl⟩),
      Nat.zero_add]
    by_cases hfit : outputWords a ≤ 255
    · rw [if_pos hfit, Option.bind_some, walk_before hfit (.inl ht)]
      by_cases hall : outputWords a + outputWords tail ≤ 255
      · rw [if_pos hall, if_pos hall]; rfl
      · rw [if_neg hall, if_neg hall]; rfl
    · rw [if_neg hfit, Option.bind_none, if_neg (by omega)]; rfl
  case once =>
    rw [buildModule, walk_beyond_producer ha hb hm hq]
    by_cases hfit : outputWords a + outputWords q.2 ≤ 255 ∧ outputWords b ≤ 255
    · rw [if_pos hfit, walk_after hfit.1 hfit.2 (.inl ht)]
      by_cases hall : outputWords b + outputWords tail ≤ 255
      · rw [if_pos hall, if_pos ⟨hfit.1, hall⟩]; rfl
      · rw [if_neg hall, if_neg fun h => hall h.2]; rfl
    · rw [if_neg hfit, if_neg (by omega)]; rfl
  case twice =>
    rw [List.append_assoc _ second.1 c, buildModule, walk_beyond_producer ha hb hm hq]
    by_cases hfit : outputWords a + outputWords q.2 ≤ 255 ∧ outputWords b ≤ 255
    · rw [if_pos hfit, BuildState.walk_append, BuildState.walk_producer hfit hm hs, if_pos rfl, ite_self]
      rfl
    · rw [if_neg hfit]; rfl

/-! ## The whole table (R161, R163) -/

theorem buildEvent_of_all {mods : List (List Command)} (h : ∀ cmds ∈ mods, buildModule cmds ≠ none) (m : Nat) :
    ∃ shapes, buildEvent m mods = .ok shapes := by
  induction mods generalizing m with
  | nil => exact ⟨[], rfl⟩
  | cons cmds rest ih =>
    obtain ⟨shape, hshape⟩ := Option.ne_none_iff_exists'.mp (h cmds List.mem_cons_self)
    obtain ⟨shapes, hshapes⟩ := ih (fun c hc => h c (List.mem_cons_of_mem _ hc)) (m + 1)
    exact ⟨shape :: shapes, by simp only [buildEvent, hshape, hshapes]⟩

/-- The shapes of an event are those of its modules, in order. -/
theorem forall₂_of_buildEvent {mods : List (List Command)} {m : Nat} {shapes : List ModuleShape}
    (h : buildEvent m mods = .ok shapes) :
    List.Forall₂ (fun cmds shape => buildModule cmds = some shape) mods shapes := by
  induction mods generalizing m shapes with
  | nil => cases h; exact .nil
  | cons cmds rest ih =>
    simp only [buildEvent] at h
    split at h
    · cases h
    · rename_i shape hshape
      split at h
      · cases h
      · rename_i shapes' hshapes
        cases h
        exact .cons hshape (ih hshapes)

/-- An event fails at its first malformed module. -/
theorem buildEvent_of_first {mods : List (List Command)} {j : Nat} {cmds : List Command} (hj : mods[j]? = some cmds)
    (hbad : buildModule cmds = none) (hgood : ∀ (k : Nat) c, k < j → mods[k]? = some c → buildModule c ≠ none)
    (m : Nat) : buildEvent m mods = .error (m + j) := by
  induction mods generalizing m j with
  | nil => cases hj
  | cons cs rest ih =>
    cases j with
    | zero => cases hj; simp only [buildEvent, hbad, Nat.add_zero]
    | succ j =>
      obtain ⟨shape, hshape⟩ := Option.ne_none_iff_exists'.mp (hgood 0 cs (Nat.succ_pos j) rfl)
      have hrest := ih hj (fun k c hk hc => hgood (k + 1) c (Nat.succ_lt_succ hk) hc) (m + 1)
      simp only [buildEvent, hshape, hrest, Nat.add_assoc, Nat.add_comm 1 j]

theorem buildEvents_of_all {programs : Programs} (h : ∀ mods ∈ programs, ∀ cmds ∈ mods, buildModule cmds ≠ none)
    (e : Nat) : ∃ rs, buildEvents e programs = .table rs := by
  induction programs generalizing e with
  | nil => exact ⟨[], rfl⟩
  | cons mods rest ih =>
    obtain ⟨shapes, hshapes⟩ := buildEvent_of_all (h mods List.mem_cons_self) 0
    obtain ⟨rs, hrs⟩ := ih (fun ms hms => h ms (List.mem_cons_of_mem _ hms)) (e + 1)
    exact ⟨shapes :: rs, by simp only [buildEvents, hshapes, hrs]⟩

/-- The rows of a table are those of its events, in order. -/
theorem forall₂_of_buildEvents {programs : Programs} {e : Nat} {rs : ReadoutStructure}
    (h : buildEvents e programs = .table rs) :
    List.Forall₂ (List.Forall₂ fun cmds shape => buildModule cmds = some shape) programs rs := by
  induction programs generalizing e rs with
  | nil => cases h; exact .nil
  | cons mods rest ih =>
    simp only [buildEvents] at h
    split at h
    · cases h
    · rename_i shapes hshapes
      split at h
      · cases h
      · rename_i rs' hrs
        cases h
        exact .cons (forall₂_of_buildEvent hshapes) (ih hrs)

/-- A table fails at the first malformed module of the first event that has one. -/
theorem buildEvents_of_first {programs : Programs} {j m : Nat} {mods : List (List Command)} {cmds : List Command}
    (hj : programs[j]? = some mods) (hm : mods[m]? = some cmds) (hbad : buildModule cmds = none)
    (hbefore : ∀ f ms, f < j → programs[f]? = some ms → ∀ c ∈ ms, buildModule c ≠ none)
    (hgood : ∀ (k : Nat) c, k < m → mods[k]? = some c → buildModule c ≠ none) (e : Nat) :
    buildEvents e programs = .error (e + j) m := by
  induction programs generalizing e j with
  | nil => cases hj
  | cons ms rest ih =>
    cases j with
    | zero =>
      cases hj
      simp only [buildEvents, buildEvent_of_first hm hbad hgood 0, Nat.zero_add, Nat.add_zero]
    | succ j =>
      obtain ⟨shapes, hshapes⟩ := buildEvent_of_all (hbefore 0 ms (Nat.succ_pos j) rfl) 0
      have hrest := ih hj (fun f c hf hc => hbefore (f + 1) c (Nat.succ_lt_succ hf) hc) (e + 1)
      simp only [buildEvents, hshapes, hrest, Nat.add_assoc, Nat.add_comm 1 j]

theorem firstOversized_eq_none_iff (p : Params) (programs : Programs) (e : Nat) :
    firstOversized p e programs = none ↔ ∀ mods ∈ programs, mods.length ≤ p.maxModules := by
  induction programs generalizing e with
  | nil => simp [firstOversized]
  | cons mods rest ih =>
    simp only [firstOversized, List.forall_mem_cons]
    split
    · rename_i hlt
      exact ⟨nofun, fun h => absurd h.1 (by omega)⟩
    · rename_i hle
      rw [ih]
      exact ⟨fun h => ⟨by omega, h⟩, fun h => h.2⟩

theorem firstOversized_of_first {p : Params} {programs : Programs} {j : Nat} {mods : List (List Command)}
    (hj : programs[j]? = some mods) (hbig : p.maxModules < mods.length)
    (hbefore : ∀ f ms, f < j → programs[f]? = some ms → ms.length ≤ p.maxModules) (e : Nat) :
    firstOversized p e programs = some (e + j) := by
  induction programs generalizing e j with
  | nil => cases hj
  | cons ms rest ih =>
    cases j with
    | zero => cases hj; simp only [firstOversized, if_pos hbig, Nat.add_zero]
    | succ j =>
      have hms := hbefore 0 ms (Nat.succ_pos j) rfl
      have hrest := ih hj (fun f c hf hc => hbefore (f + 1) c (Nat.succ_lt_succ hf) hc) (e + 1)
      simp only [firstOversized, if_neg (Nat.not_lt.mpr hms), hrest, Nat.add_assoc, Nat.add_comm 1 j]

theorem buildReadoutStructure_of_long (p : Params) {programs : Programs} (h : 15 < programs.length) :
    buildReadoutStructure p programs = .error 15 (-1) := if_pos h

theorem buildReadoutStructure_of_short (p : Params) {programs : Programs} (h : programs.length ≤ 15) :
    buildReadoutStructure p programs = match firstOversized p 0 programs with
      | some e => .error e (-1)
      | none => buildEvents 0 programs := if_neg (Nat.not_lt.mpr h)

/-- Where no limit is exceeded, the builder builds the events (R161). -/
theorem buildReadoutStructure_of_limits {p : Params} {programs : Programs} (hlen : programs.length ≤ 15)
    (hmods : ∀ mods ∈ programs, mods.length ≤ p.maxModules) :
    buildReadoutStructure p programs = buildEvents 0 programs := by
  rw [buildReadoutStructure_of_short p hlen, (firstOversized_eq_none_iff p programs 0).mpr hmods]

/-- A table is built only within the limits (R161). -/
theorem limits_of_buildReadoutStructure {p : Params} {programs : Programs} {rs : ReadoutStructure}
    (h : buildReadoutStructure p programs = .table rs) :
    programs.length ≤ 15 ∧ (∀ mods ∈ programs, mods.length ≤ p.maxModules) ∧ buildEvents 0 programs = .table rs := by
  unfold buildReadoutStructure at h
  split at h
  · cases h
  · rename_i hlen
    split at h
    · cases h
    · rename_i hover
      exact ⟨Nat.not_lt.mp hlen, (firstOversized_eq_none_iff p programs 0).mp hover, h⟩

theorem exec_buildReadoutStructure (programs : Programs) (s : State) :
    exec (.buildReadoutStructure programs) s =
      .next { s with result := (buildReadoutStructure s.params programs).toResult } := rfl

/-- Settles O8. -/
theorem builderReturnsTheTableOrTheFirstFailure : Obligations.BuilderReturnsTheTableOrTheFirstFailure := by
  intro s programs
  refine ⟨fun hlong => ?tooMany, fun hlen e mods he hbig hbefore => ?tooBig, fun hlen hmods => ⟨?malformed, ?table⟩⟩
  case tooMany =>
    rw [exec_buildReadoutStructure, buildReadoutStructure_of_long _ hlong]; rfl
  case tooBig =>
    rw [exec_buildReadoutStructure, buildReadoutStructure_of_short _ hlen,
      firstOversized_of_first he hbig hbefore, Nat.zero_add]
    rfl
  case malformed =>
    intro e mods m cmds he hm hbad hbefore hgood
    rw [exec_buildReadoutStructure, buildReadoutStructure_of_limits hlen hmods,
      buildEvents_of_first he hm hbad hbefore hgood, Nat.zero_add]
    rfl
  case table =>
    intro hall
    obtain ⟨rs, hrs⟩ := buildEvents_of_all hall 0
    refine ⟨rs, ?_, forall₂_of_buildEvents hrs⟩
    rw [exec_buildReadoutStructure, buildReadoutStructure_of_limits hlen hmods, hrs]
    rfl

/-- Words are counted after the block producer only once there is one (R163). -/
theorem BuildState.suffixLen_of_walk {b c : BuildState} {cs : List Command} (h : b.walk cs = some c)
    (hb : b.hasDynamic = false → b.suffixLen = 0) : c.hasDynamic = false → c.suffixLen = 0 := by
  have single {b c : BuildState} {n : Nat} (h : b.single n = some c) (hb : b.hasDynamic = false → b.suffixLen = 0) :
      c.hasDynamic = false → c.suffixLen = 0 := by
    rw [BuildState.single_eq] at h
    split at h
    · cases h
      intro hd
      rw [BuildState.add_hasDynamic] at hd
      rw [BuildState.add, if_neg (by simp [hd]), hb hd]
    · cases h
  have producer {b c : BuildState} (h : b.blockProducer = some c) : c.hasDynamic = false → c.suffixLen = 0 := by
    unfold BuildState.blockProducer at h
    split at h
    · cases h
    · cases h; nofun
  induction cs generalizing b with
  | nil => cases h; exact hb
  | cons c' cs ih =>
    obtain ⟨d, hd, hrest⟩ := Option.bind_eq_some_iff.mp h
    refine ih hrest ?_
    cases c' with
    | vmeRead =>
      rw [BuildState.command] at hd
      split at hd
      · exact producer hd
      · exact single hd hb
    | vmeBlockRead => exact producer hd
    | writeMarker => exact single hd hb
    | writeSpecial => exact single hd hb
    | custom n => exact single hd hb
    | setAccu => cases hd; exact hb
    | other => cases hd; exact hb

theorem suffixLen_of_buildModule {cmds : List Command} {shape : ModuleShape} (h : buildModule cmds = some shape)
    (hd : shape.hasDynamic = false) : shape.suffixLen = 0 := by
  obtain ⟨b, hb, rfl⟩ := Option.map_eq_some_iff.mp h
  simp [BuildState.suffixLen_of_walk hb (fun _ => rfl) hd]

/-- Settles O10: the rows and modules of a table are those of the programs, which are within the limits. -/
theorem builtTablesAreLegal : Obligations.BuiltTablesAreLegal := by
  intro s t programs rs hexec hres
  rw [exec_buildReadoutStructure] at hexec
  cases hexec
  have htable : buildReadoutStructure s.params programs = .table rs := by
    cases hb : buildReadoutStructure s.params programs with
    | table rs' => simp only [hb, BuildResult.toResult, OpResult.table.injEq] at hres; rw [hres]
    | error e m => simp only [hb, BuildResult.toResult, reduceCtorEq] at hres
  obtain ⟨hlen, hmods, hbuild⟩ := limits_of_buildReadoutStructure htable
  have hrows := forall₂_of_buildEvents hbuild
  have hrow (row : List ModuleShape) (h : row ∈ rs) : ∃ mods ∈ programs,
      List.Forall₂ (fun cmds shape => buildModule cmds = some shape) mods row := by
    obtain ⟨k, hk, rfl⟩ := List.getElem_of_mem h
    have hk' : k < programs.length := hrows.length_eq ▸ hk
    exact ⟨programs[k], List.getElem_mem hk', hrows.get hk' hk⟩
  constructor
  · simp only [ReadoutStructure.legal, Bool.and_eq_true, decide_eq_true_eq, List.all_eq_true, ← hrows.length_eq]
    refine ⟨hlen, fun row h => ?_⟩
    obtain ⟨mods, hm, hf⟩ := hrow row h
    exact hf.length_eq ▸ hmods mods hm
  · intro row h shape hshape hd
    obtain ⟨mods, -, hf⟩ := hrow row h
    obtain ⟨k, hk, rfl⟩ := List.getElem_of_mem hshape
    exact suffixLen_of_buildModule (hf.get (hf.length_eq ▸ hk) hk) hd

end Sys2Proof.Machine

/-! # Sessions, engines and the schedule: what each operation answers (O11 to O15, O19, O20, O25) -/

namespace Sys2Proof.Machine

/-! ## When an operation of the parser is carried out (R450, R455) -/

section
variable {s : State} (r : Host.Outcome State Fault Refusal)

theorem State.exclusive_of_closed (h : s.parser.callOpen = false) : s.exclusive r = r := by
  simp [State.exclusive, h]

theorem State.exclusive_of_open (h : s.parser.callOpen = true) : s.exclusive r = .refused .overlapsParseCall := by
  simp [State.exclusive, h]

theorem State.inSession_of_closed (h : s.parser.callOpen = false) (hs : s.parser.session = true) :
    s.inSession r = r := by
  simp [State.inSession, State.exclusive_of_closed _ h, hs]

theorem State.inSession_of_none (h : s.parser.callOpen = false) (hs : s.parser.session = false) :
    s.inSession r = .refused .noSession := by
  simp [State.inSession, State.exclusive_of_closed _ h, hs]

theorem State.inSession_of_open (h : s.parser.callOpen = true) : s.inSession r = .refused .overlapsParseCall :=
  State.exclusive_of_open _ h

/-- An exclusive operation with a next state ran with no call open. -/
theorem State.exclusive_eq_next {t : State} (h : s.exclusive r = .next t) :
    s.parser.callOpen = false ∧ r = .next t := by
  cases hc : s.parser.callOpen with
  | true => rw [State.exclusive_of_open _ hc] at h; cases h
  | false => rw [State.exclusive_of_closed _ hc] at h; exact ⟨rfl, h⟩

/-- An operation in a session with a next state ran with a session and no call open. -/
theorem State.inSession_eq_next {t : State} (h : s.inSession r = .next t) :
    s.parser.callOpen = false ∧ s.parser.session = true ∧ r = .next t := by
  obtain ⟨hc, h⟩ := State.exclusive_eq_next _ h
  cases hs : s.parser.session with
  | true => rw [hs, if_pos rfl] at h; exact ⟨hc, rfl, h⟩
  | false => rw [hs, if_neg Bool.false_ne_true] at h; cases h

end

/-! ## Operands out of range (R307, R360, R450) -/

/-- An instruction with an operand outside its rule's range is refused, no call being open (log 20). -/
theorem exec_of_not_wellFormed {s : State} {i : Instr} (hc : s.parser.callOpen = false)
    (h : wellFormed s.params i = false) : exec i s = .refused .operandOutOfRange := by
  cases i with
  | sessionReset rs =>
    change s.exclusive _ = _
    rw [State.exclusive_of_closed _ hc, if_neg (by simp [h])]
  | rxWords ws => exact if_neg (by simp [h])
  | generateEvent ev k mods m => exact if_neg (by simp [h])
  | generateSystemEvent hdr pay m => exact if_neg (by simp [h])
  | _ => cases h

/-! ## Resets (R450, R451) -/

theorem exec_sessionReset {s : State} {rs : ReadoutStructure} (hc : s.parser.callOpen = false)
    (hrs : ReadoutStructure.legal s.params rs = true) : exec (.sessionReset rs) s =
      .next { s with parser := .afterReset true rs, otherSessions := s.sessionsKept } := by
  change s.exclusive _ = _
  rw [State.exclusive_of_closed _ hc, if_pos (c := wellFormed s.params (.sessionReset rs) = true) hrs]
  rfl

theorem ParseResults.get_zero (o : ParseOutcome) : ParseResults.zero.get o = 0 := by cases o <;> rfl

/-- Settles O11. -/
theorem sessionResetSetsEveryRegister : Obligations.SessionResetSetsEveryRegister := fun _ rs hc hrs =>
  ⟨.afterReset true rs, exec_sessionReset hc hrs, rfl, rfl, rfl, rfl, rfl, rfl, rfl, fun _ => rfl, rfl, rfl, rfl, rfl,
    rfl, rfl, rfl, rfl, rfl, rfl, ParseResults.get_zero, fun _ _ => rfl, rfl, rfl⟩

/-- Settles O12. -/
theorem engineConstructSetsEveryRegister : Obligations.EngineConstructSetsEveryRegister := fun _ =>
  ⟨.constructed, rfl, rfl, rfl, rfl, rfl, rfl, rfl, rfl, rfl, rfl, rfl, rfl, fun _ _ _ => rfl, rfl⟩

/-- A session just reset has the registers of Idle (R31, R450). -/
theorem Parser.idleRegisters_afterReset (b : Bool) (rs : ReadoutStructure) :
    (Parser.afterReset b rs).IdleRegisters := ⟨rfl, rfl, rfl, rfl, rfl, rfl, rfl, rfl⟩

/-- A session just reset with a legal table has the parser's invariant. -/
theorem Parser.inv_afterReset {p : Params} {rs : ReadoutStructure} (b : Bool)
    (h : ReadoutStructure.legal p rs = true) : (Parser.afterReset b rs).Inv p where
  table := h
  idle _ := Parser.idleRegisters_afterReset b rs
  event he := absurd (show (0 : Int) ≤ -1 from he) (by decide)
  scratch := ⟨rfl, Nat.zero_le _⟩
  canonical := ⟨.nil, Sparse.wf_nil _, Sparse.wf_nil _⟩
  call := rfl

/-- An engine just constructed has the correlator's invariant. -/
theorem Engine.inv_constructed (p : Params) : Engine.constructed.Inv p where
  fifo := Nat.zero_le _
  chain := Nat.zero_le _
  notCollecting _ := ⟨rfl, rfl⟩
  notBroken := rfl
  stopped h := absurd h (by decide)
  superBounded := trivial
  stackBounded := trivial
  hist := Sparse.wf_nil 0
  histStacks _ h := absurd h List.not_mem_nil

/-- An engine just constructed has no callers, and both its slots are free. -/
theorem Correlator.exclusion_constructed :
    (⟨.constructed, []⟩ : Correlator).superExclusion ∧ (⟨.constructed, []⟩ : Correlator).stackExclusion := ⟨rfl, rfl⟩

theorem State.inv_reset : State.reset.Inv where
  parser := ⟨fun P h => List.mem_singleton.mp h ▸ Parser.inv_afterReset false (by decide),
    fun _ h => absurd h List.not_mem_nil⟩
  engine c h := List.mem_singleton.mp h ▸ Engine.inv_constructed _
  exclusion c h := List.mem_singleton.mp h ▸ Correlator.exclusion_constructed

/-- Settles O13. -/
theorem resetLeavesIdleAndARunningEngine : Obligations.ResetLeavesIdleAndARunningEngine :=
  ⟨rfl, rfl, Parser.idleRegisters_afterReset false [], rfl, rfl, rfl, rfl, rfl, rfl, rfl, rfl, rfl,
    ParseResults.get_zero, fun _ _ => rfl, rfl, rfl, rfl, rfl, rfl, rfl, rfl, rfl, rfl, rfl, rfl, State.inv_reset⟩

/-! ## Refusals -/

/-- Settles O14. -/
theorem overlappingAccessIsRefused : Obligations.OverlappingAccessIsRefused := fun _ _ _ _ h =>
  ⟨State.inSession_of_open _ h, State.inSession_of_open _ h, State.inSession_of_open _ h,
    State.exclusive_of_open _ h, State.exclusive_of_open _ h⟩

/-- Settles O15. -/
theorem operationsOutsideTheirDomainAreRefused : Obligations.OperationsOutsideTheirDomainAreRefused :=
  fun _ _ _ _ hc => ⟨fun hs => ⟨State.inSession_of_none _ hc hs, State.inSession_of_none _ hc hs,
    State.inSession_of_none _ hc hs⟩, exec_of_not_wellFormed hc⟩

/-! ## The end of a stream and the counter ports (R194, R415, R416) -/

theorem exec_endOfStream {s : State} (hs : s.parser.session = true) (hc : s.parser.callOpen = false) :
    exec .endOfStream s =
      .next { s with parser := s.parser.endOfStream, result := .outcome s.parser.endOfStreamOutcome } := by
  change s.inSession _ = _
  rw [State.inSession_of_closed _ hc hs]
  rfl

/-- Settles O19: the two branches of R194. -/
theorem endOfStreamTruncatesTheEvent : Obligations.EndOfStreamTruncatesTheEvent := by
  intro s hs hc
  rw [exec_endOfStream hs hc, Parser.endOfStream, Parser.endOfStreamOutcome]
  constructor <;> intro he
  · rw [if_neg (by omega), if_neg (by omega)]
  · rw [if_pos he, if_pos he]; rfl

/-- Settles O20. -/
theorem counterReadsReturnCopies : Obligations.CounterReadsReturnCopies := fun _ =>
  ⟨State.exclusive_of_closed _, rfl⟩

/-! ## What the step fetches (R11, R300; log 5, 6) -/

section
variable {s : State}

theorem State.fetch_word {pos : Position} {w : Word} (h : s.parser.nextWord = some (pos, w)) :
    s.fetch = .word pos w := by
  simp [State.fetch, h]

theorem State.fetch_event {e : Event} {es : List Event} (h : s.parser.nextWord = none) (hs : s.schedule = e :: es) :
    s.fetch = .event e es := by
  simp [State.fetch, h, hs]

theorem State.fetch_reader (h : s.parser.nextWord = none) (hs : s.schedule = []) : s.fetch = .readerRuns := by
  simp [State.fetch, h, hs]

end

/-- Settles O25. -/
theorem stepRunsWhatItFetches : Obligations.StepRunsWhatItFetches := by
  intro s
  refine ⟨fun pos w i hw hi => ?word, fun i es hn hs => ?op, fun c ok es hn hs => ?caller,
    fun k es hn hs => ⟨fun c hk => ?engine, fun hk => ?noEngine⟩,
    fun k es hn hs => ⟨fun P hk => ?session, fun hk => ?noSession⟩, fun hn hs => ?reader⟩
  case word => simp only [step, State.fetch_word hw, hi]
  case reader => simp only [step, State.fetch_reader hn hs]
  all_goals simp only [step, State.fetch_event hn hs]
  case op => rfl
  case caller => rfl
  case engine => rw [State.turnToEngine_of_some (c := c) (s.withSchedule es) hk]; rfl
  case noEngine => rw [State.turnToEngine_of_none (s.withSchedule es) (List.getElem?_eq_none hk)]; rfl
  case session => rw [State.turnToSession_of_some (P := P) (s.withSchedule es) hk]; rfl
  case noSession => rw [State.turnToSession_of_none (s.withSchedule es) (List.getElem?_eq_none hk)]; rfl

end Sys2Proof.Machine

/-! # The reader of the command pipe (O40 to O46) -/

namespace Sys2Proof.Machine

/-! ## A reader step by what stands at the head of the FIFO (R308, R313) -/

section
variable (p : Params) {T : Engine} {w : Word} {rest : List Word}

theorem Engine.readerStep_of_stopped (h : T.running = false) : T.readerStep p = T := by
  unfold Engine.readerStep
  split
  · rfl
  · simp [Engine.readerWord, h]

theorem Engine.readerStep_of_empty (h : T.fifo = []) : T.readerStep p = T := by
  simp [Engine.readerStep, h]

theorem Engine.readerStep_of_head (h : T.fifo.head? = some w) : T.readerStep p = T.readerWord p w := by
  unfold Engine.readerStep
  cases hf : T.fifo with
  | nil => simp [hf] at h
  | cons x xs => simp only [hf, List.head?_cons, Option.some.injEq] at h; rw [h]

theorem Engine.readerStep_of_collecting (hr : T.running = true) (hf : T.fifo = w :: rest)
    (hc : T.collecting = true) : T.readerStep p = T.chainWord p w := by
  simp [Engine.readerStep, Engine.readerWord, hf, hr, hc]

theorem Engine.readerStep_of_not_collecting (hr : T.running = true) (hf : T.fifo = w :: rest)
    (hc : T.collecting = false) : T.readerStep p = T.headWord p w := by
  simp [Engine.readerStep, Engine.readerWord, hf, hr, hc]

theorem frameComplete_cons (w : Word) (rest : List Word) :
    frameComplete (w :: rest) w = true ↔ payloadWords w ≤ rest.length := by
  simp [frameComplete]; omega

theorem payloadOf_cons {pay : List Word} (hl : pay.length = payloadWords w) :
    payloadOf (w :: (pay ++ rest)) w = pay := by
  simp [payloadOf, ← hl]

theorem Engine.pop_frame {pay : List Word} (hf : T.fifo = w :: (pay ++ rest)) (hl : pay.length = payloadWords w) :
    T.pop (1 + payloadWords w) = { T with fifo := rest } := by
  have hdrop : (w :: (pay ++ rest)).drop (1 + pay.length) = rest := by
    rw [Nat.add_comm, List.drop_succ_cons, List.drop_left]
  rw [Engine.pop, hf, ← hl, hdrop]

/-- A frame that is there in full leaves the FIFO and is handled (R308, R309). -/
theorem Engine.headWord_of_frame {pay : List Word} (hg : isGoodHeader p w = true)
    (hf : T.fifo = w :: (pay ++ rest)) (hl : pay.length = payloadWords w) :
    T.headWord p w = Engine.dispatchFrame p w pay { T with fifo := rest } := by
  have hcomplete : frameComplete T.fifo w = true := by
    rw [hf, frameComplete_cons, ← hl, List.length_append]; omega
  rw [Engine.headWord, if_neg (by simp [hg]), if_pos hcomplete, Engine.pop_frame hf hl, hf, payloadOf_cons hl]

/-- A frame whose end has not arrived waits (R308; log 7). -/
theorem Engine.headWord_of_incomplete (hg : isGoodHeader p w = true) (hf : T.fifo = w :: rest)
    (hl : rest.length < payloadWords w) : T.headWord p w = T := by
  rw [Engine.headWord, if_neg (by simp [hg]), if_neg (by rw [hf, frameComplete_cons]; omega)]

/-- A word that is no good header is dropped and counted (R308). -/
theorem Engine.headWord_of_not_good (hg : isGoodHeader p w = false) : T.headWord p w = (T.pop 1).countSkipped :=
  if_pos hg

/-- A continuation that is there in full leaves the FIFO, and its payload joins the chain (R313). -/
theorem Engine.chainWord_of_frame {pay : List Word} (hw : typeOf w = 0xF9#8 ∧ stackNumOf w = T.chainStack)
    (hf : T.fifo = w :: (pay ++ rest)) (hl : pay.length = payloadWords w) :
    T.chainWord p w = if hasContinue w then Engine.appendChain p pay { T with fifo := rest }
      else (Engine.appendChain p pay { T with fifo := rest }).finishChain := by
  have hcomplete : frameComplete T.fifo w = true := by
    rw [hf, frameComplete_cons, ← hl, List.length_append]; omega
  rw [Engine.chainWord, if_pos hw, if_pos hcomplete, Engine.pop_frame hf hl, hf, payloadOf_cons hl]

theorem Engine.chainWord_of_incomplete (hw : typeOf w = 0xF9#8 ∧ stackNumOf w = T.chainStack)
    (hf : T.fifo = w :: rest) (hl : rest.length < payloadWords w) : T.chainWord p w = T := by
  rw [Engine.chainWord, if_pos hw, if_neg (by rw [hf, frameComplete_cons]; omega)]

theorem Engine.chainWord_of_other (hw : ¬ (typeOf w = 0xF9#8 ∧ stackNumOf w = T.chainStack)) :
    T.chainWord p w = Engine.finishChain { T.countChainBroken with chainBroken := true } :=
  if_neg hw

end

theorem toNat_payloadWords (w : Word) : payloadWords w = w.toNat % 2 ^ 13 := toNat_lengthOf w

theorem exec_readerStep (s : State) : exec .readerStep s = .next { s with engine := s.engine.readerStep s.params } := rfl

/-- A header word at the head of the FIFO, with no call open, does what the reader does (R308; log 12). -/
theorem exec_of_atHead {s : State} {i : Instr} (h : s.AtHead i) (hp : positionOf i = .frame) :
    exec i s = exec .readerStep s := by
  obtain ⟨hc, hh⟩ := h
  obtain ⟨w, hw, hhead⟩ := Option.map_eq_some_iff.mp hh
  rw [exec_eq_frameWordStep hw hp, frameWordStep_of_head hc hhead.symm, exec_readerStep,
    Engine.readerStep_of_head _ hhead.symm]
  rfl

/-- A header word that no open call reads and that is not at the head of the FIFO is refused (log 12). -/
theorem exec_of_not_standing {s : State} {i : Instr} (hi : isHeaderWord i = true) (hr : ¬ s.Reads i)
    (ha : positionOf i ≠ .frame ∨ ¬ s.AtHead i) : exec i s = .refused .notAtThisPosition := by
  obtain ⟨w, hw⟩ := exists_encode_of_isHeaderWord s.params hi
  have hnext : s.parser.nextWord ≠ some (positionOf i, w) := fun h => hr (by simp [State.Reads, hw, h])
  by_cases hp : positionOf i = .frame
  · have hhead : ¬ (s.parser.callOpen = false ∧ s.engine.fifo.head? = some w) := fun h =>
      (ha.resolve_left (not_not_intro hp)) ⟨h.1, by simp [hw, h.2]⟩
    rw [exec_eq_frameWordStep hw hp, frameWordStep]
    rw [hp] at hnext
    cases hc : s.parser.callOpen with
    | true => rw [if_pos rfl, if_neg hnext]
    | false => rw [if_neg Bool.false_ne_true, if_neg fun h => hhead ⟨hc, h⟩]
  · cases i with
    | eth0 c n g d => cases hw; exact if_neg hnext
    | eth1 t h => cases hw; exact if_neg hnext
    | _ => exact absurd rfl hp

/-- Settles O40. -/
theorem headerWordsActOnlyWhereTheyStand : Obligations.HeaderWordsActOnlyWhereTheyStand := fun s =>
  ⟨⟨_, exec_readerStep s⟩, fun _ => exec_of_atHead, fun _ => exec_of_not_standing⟩

/-- Settles O41. -/
theorem readerSkipsAndWaits : Obligations.ReaderSkipsAndWaits := by
  intro s
  refine ⟨fun h => ?idle, fun w rest hr hc hf => ⟨fun hg => ?skip, fun hg hl => ?wait⟩⟩
  case idle =>
    rw [exec_readerStep]
    rcases h with h | h
    · rw [Engine.readerStep_of_stopped _ h]
    · rw [Engine.readerStep_of_empty _ h]
  case skip =>
    rw [exec_readerStep, Engine.readerStep_of_not_collecting _ hr hf hc, Engine.headWord_of_not_good _ hg,
      Engine.pop, hf]
    rfl
  case wait =>
    rw [exec_readerStep, Engine.readerStep_of_not_collecting _ hr hf hc,
      Engine.headWord_of_incomplete _ hg hf (by rwa [toNat_payloadWords])]

/-! ## The judgement of a reply (R310, R312, R314) -/

theorem superRefMatches_iff (pay : List Word) (ref : BitVec 16) :
    superRefMatches pay ref = true ↔ ∃ w ∈ pay.head?, w.toNat % 2 ^ 16 = ref.toNat := by
  cases pay with
  | nil => simp [superRefMatches]
  | cons w pay =>
    rw [superRefMatches, beq_iff_eq, ← BitVec.toNat_inj, toNat_field_bottom, List.head?_cons]
    exact ⟨fun h => ⟨w, rfl, h⟩, fun ⟨v, hv, h⟩ => by cases hv; exact h⟩

theorem stackRefMatches_iff (chain : List Word) (ref : BitVec 32) :
    stackRefMatches chain ref = true ↔ chain.head? = some ref := by
  cases chain <;> simp [stackRefMatches]

/-- A SuperFrame's payload is judged against the super slot (R310). -/
theorem superJudged_superReply (p : Params) (pay : List Word) (T : Engine) :
    SuperJudged p pay T (T.superReply p pay) := by
  constructor
  · intro hp
    unfold Engine.superReply
    split
    · rfl
    · rfl
    · rename_i ref hs; rw [hs] at hp; cases hp
  · intro ref hs
    have hreply : T.superReply p pay = if superRefMatches pay ref then
        if p.respMaxWords < pay.length then T.fulfilSuper (.err .protocolError) else T.fulfilSuper (.ok pay)
        else T.countSuperMismatch.fulfilSuper (.err .referenceMismatch) := by
      unfold Engine.superReply; rw [hs]
    constructor
    · intro hne
      rw [hreply, if_neg (by rw [superRefMatches_iff]; rintro ⟨w, hw, he⟩; exact hne w hw he)]
      rfl
    · intro heq
      rw [hreply, if_pos ((superRefMatches_iff _ _).mpr heq)]
      exact ⟨fun h => if_pos h, fun h => if_neg (Nat.not_lt.mpr h)⟩

/-- `append(pay)` takes the words that fit and notes whether one did not (R312). -/
theorem Engine.appendChain_eq (p : Params) (pay : List Word) (T : Engine) (h : T.chainWords.length ≤ p.respMaxWords) :
    T.appendChain p pay = { T with
      chainWords := (T.chainWords ++ pay).take p.respMaxWords
      chainOverflow := T.chainOverflow || decide (p.respMaxWords < (T.chainWords ++ pay).length) } := by
  induction pay generalizing T with
  | nil => simp [Engine.appendChain, List.take_of_length_le h, Nat.not_lt.mpr h]
  | cons x pay ih =>
    rw [Engine.appendChain]
    split
    · rename_i hlt
      rw [ih _ (by simp; omega)]
      simp
    · rename_i hge
      rw [ih { T with chainOverflow := true } h]
      have hfull : T.chainWords.length = p.respMaxWords := by omega
      have htake (l : List Word) : (T.chainWords ++ l).take p.respMaxWords = T.chainWords := by
        rw [← hfull, List.take_left]
      simp only [htake, Bool.true_or, List.length_append, List.length_cons, hfull,
        decide_eq_true (show p.respMaxWords < p.respMaxWords + (pay.length + 1) by omega),
        Bool.or_true]

/-- The collector's registers set (R47). -/
def Engine.withChain (collecting : Bool) (words : List Word) (overflow broken : Bool) (T : Engine) : Engine :=
  { T with collecting := collecting, chainWords := words, chainOverflow := overflow, chainBroken := broken }

/-- The collector's registers emptied, as every judgement leaves them (R314). -/
abbrev Engine.chainEnded (T : Engine) : Engine := T.withChain false [] false false

section
variable {T : Engine} (k o b : Bool) (ws : List Word)

theorem Engine.finishChain_of_not_pending (h : T.slotStack.isPending = false) :
    (T.withChain k ws o b).finishChain = T.chainEnded.countUnexpectedStack := by
  unfold Engine.finishChain Engine.judgeChain
  split <;> rename_i hs
  · rfl
  · rfl
  · exact absurd (hs ▸ h : Slot.isPending (.pending _) = false) (by simp [Slot.isPending])

theorem Engine.finishChain_of_pending {ref : BitVec 32} (h : T.slotStack = .pending ref) :
    (T.withChain k ws o b).finishChain =
      if stackRefMatches ws ref then T.chainEnded.fulfilStack (if b || o then .err .protocolError else .ok ws)
      else T.chainEnded.countStackMismatch.fulfilStack (.err .referenceMismatch) := by
  simp only [Engine.finishChain, Engine.judgeChain, Engine.withChain, h]
  cases stackRefMatches ws ref <;> cases b <;> cases o <;> rfl

end

/-- A judgement empties the collector and touches nothing but the stack slot and the counters (R314). -/
theorem Engine.finishChain_frame (T : Engine) : T.finishChain =
    { T.chainEnded with slotStack := T.finishChain.slotStack, counters := T.finishChain.counters } := by
  have hT : T = T.withChain T.collecting T.chainWords T.chainOverflow T.chainBroken := rfl
  cases hs : T.slotStack with
  | pending ref =>
    rw [hT, Engine.finishChain_of_pending _ _ _ _ hs]
    split <;> rfl
  | free => rw [hT, Engine.finishChain_of_not_pending _ _ _ _ (by rw [hs]; rfl)]; rfl
  | fulfilled r => rw [hT, Engine.finishChain_of_not_pending _ _ _ _ (by rw [hs]; rfl)]; rfl

/-- `finish_chain()` judges the reply `chain`, of which the words `ws` were collected (R314). -/
theorem stackJudged_finishChain {p : Params} {T : Engine} {chain ws : List Word} {bad k o b : Bool}
    (hhead : ws.head? = chain.head?) (hbad : (b || o) = (bad || decide (p.respMaxWords < chain.length)))
    (hwords : chain.length ≤ p.respMaxWords → ws = chain) :
    StackJudged p chain bad T (T.withChain k ws o b).finishChain := by
  refine ⟨fun hp => Engine.finishChain_of_not_pending k o b ws hp, fun ref hs => ?_⟩
  have hmatch : stackRefMatches ws ref = true ↔ chain.head? = some ref := by rw [stackRefMatches_iff, hhead]
  rw [Engine.finishChain_of_pending k o b ws hs, hbad]
  refine ⟨fun hne => ?mismatch, fun heq => ⟨fun hfail => ?fails, fun hok hfit => ?fits⟩⟩
  case mismatch => rw [if_neg (by rwa [hmatch])]; rfl
  case fails =>
    rw [if_pos (hmatch.mpr heq), if_pos (by simpa using hfail)]; rfl
  case fits =>
    rw [if_pos (hmatch.mpr heq), if_neg (by simp [hok, hfit]), hwords hfit]; rfl

theorem head?_take {α : Type} {n : Nat} (h : 1 ≤ n) (l : List α) : (l.take n).head? = l.head? := by
  rw [List.head?_take, if_neg (by omega)]

/-- The limits that legal parameters keep (R7). -/
theorem legal_limits {p : Params} (h : p.legal = true) :
    1 ≤ p.scratchWords ∧ 1 ≤ p.maxModules ∧ 8192 ≤ p.cmdFifoWords ∧ 1 ≤ p.respMaxWords := by
  simp [Params.legal] at h
  tauto

/-! ## The handlers of the three good headers (R309) -/

section
variable (p : Params) {w : Word} (pay : List Word) (T : Engine)

theorem Engine.dispatchFrame_super (h : typeOf w = p.typeSuper) : T.dispatchFrame p w pay = T.superReply p pay :=
  if_pos h

theorem Engine.dispatchFrame_stack (hp : p.legal = true) (h : typeOf w = 0xF3#8) :
    T.dispatchFrame p w pay = T.stackReply p w pay := by
  obtain ⟨-, ⟨hne, -⟩, -⟩ := legal_types hp
  rw [Engine.dispatchFrame, if_neg (by rw [h]; exact hne.symm), if_pos h]

theorem Engine.dispatchFrame_stackErr (hp : p.legal = true) (h : typeOf w = p.typeStackErr) :
    T.dispatchFrame p w pay = T.stackErrorFrame w pay := by
  obtain ⟨hne, -, hne', -⟩ := legal_types hp
  rw [Engine.dispatchFrame, if_neg (by rw [h]; exact hne.symm), if_neg (by rwa [h])]

/-- What a StackFrame does to the collector before its Continue bit is looked at (R311, R312). -/
theorem Engine.openChain_appendChain (w : Word) :
    (T.openChain w).appendChain p pay = Engine.withChain T.collecting (pay.take p.respMaxWords)
      (decide (p.respMaxWords < pay.length)) false { T with chainStack := stackNumOf w } := by
  rw [Engine.appendChain_eq _ _ _ (Nat.zero_le _)]
  rfl

end

/-- A header word at the head of the FIFO of a running engine is a reader step on it. -/
theorem exec_of_head {s : State} {i : Instr} {w : Word} {rest : List Word} (hi : encode s.params i = some w)
    (hp : positionOf i = .frame) (hc : s.parser.callOpen = false) (hf : s.engine.fifo = w :: rest) :
    exec i s = .next { s with engine := s.engine.readerStep s.params } := by
  rw [exec_of_atHead ⟨hc, by rw [hi, hf]; rfl⟩ hp, exec_readerStep]

/-- A frame header at the head of the FIFO of a running engine that collects nothing, the frame being there in full. -/
theorem exec_of_headFrame {s : State} {i : Instr} {w : Word} {pay rest : List Word} (hi : encode s.params i = some w)
    (hp : positionOf i = .frame) (hg : isGoodHeader s.params w = true) (hc : s.parser.callOpen = false)
    (hr : s.engine.running = true) (hcol : s.engine.collecting = false) (hf : s.engine.fifo = w :: (pay ++ rest))
    (hl : pay.length = payloadWords w) :
    exec i s = .next { s with engine := Engine.dispatchFrame s.params w pay { s.engine with fifo := rest } } := by
  rw [exec_of_head hi hp hc hf, Engine.readerStep_of_not_collecting _ hr hf hcol, Engine.headWord_of_frame _ hg hf hl]

/-- Settles O42. -/
theorem superRepliesAreJudged : Obligations.SuperRepliesAreJudged := by
  intro s f n c l pay rest hc hr hcol hf hl
  refine ⟨_, exec_of_headFrame rfl rfl ((isGoodHeader_iff ..).mpr (.inl (typeOf_packHeader ..))) hc hr hcol hf
    (by simpa using hl), ?_⟩
  rw [Engine.dispatchFrame_super _ _ _ (typeOf_packHeader ..)]
  exact superJudged_superReply ..

/-- Settles O43. -/
theorem stackRepliesOpenChains : Obligations.StackRepliesOpenChains := by
  intro s f n c l pay rest hp hc hr hcol hf hl
  refine ⟨_, exec_of_headFrame rfl rfl ((isGoodHeader_iff ..).mpr (.inr (.inl (typeOf_packHeader ..)))) hc hr hcol hf
    (by simpa using hl), ?_⟩
  rw [Engine.dispatchFrame_stack _ _ _ hp (typeOf_packHeader ..), Engine.stackReply, Engine.openChain_appendChain,
    hasContinue_packHeader, stackNumOf_packHeader]
  refine ⟨fun hlast => ?_, fun hmore => ?_⟩
  · rw [if_neg (by rw [hlast]; exact Bool.false_ne_true)]
    exact stackJudged_finishChain (head?_take (legal_limits hp).2.2.2 pay) rfl fun h => List.take_of_length_le h
  · rw [if_pos hmore]; rfl

/-- Settles O44. -/
theorem continuationsExtendTheChainOthersBreakIt : Obligations.ContinuationsExtendTheChainOthersBreakIt := by
  intro s hp hinv hr hcol
  refine ⟨fun f c l tail hc hf => ?_, fun w rest hf hother => ?_⟩
  · have hstep := exec_of_head (i := .cont f s.engine.chainStack c l) rfl rfl hc hf
    rw [Engine.readerStep_of_collecting _ hr hf hcol] at hstep
    have hw : typeOf (packHeader 0xF9#8 f (s.engine.chainStack ++ c) l) = 0xF9#8 ∧
        stackNumOf (packHeader 0xF9#8 f (s.engine.chainStack ++ c) l) = s.engine.chainStack := by simp
    refine ⟨fun hl => ?_, fun pay rest ht hl => ⟨_, hstep, ?_⟩⟩
    · rw [hstep, Engine.chainWord_of_incomplete _ hw hf (by simpa using hl)]
    · subst ht
      rw [Engine.chainWord_of_frame _ hw hf (by simpa using hl), hasContinue_packHeader,
        Engine.appendChain_eq _ _ { s.engine with fifo := rest } hinv.chain]
      refine ⟨fun hmore => if_pos hmore, fun hlast => ?_⟩
      rw [if_neg (by rw [hlast]; exact Bool.false_ne_true)]
      refine stackJudged_finishChain (T := { s.engine with fifo := rest }) rfl ?_ fun _ => rfl
      have hfit : ¬ s.params.respMaxWords <
          ((s.engine.chainWords ++ pay).take s.params.respMaxWords).length := by rw [List.length_take]; omega
      rw [decide_eq_false hfit, Bool.or_false]
      exact (congrArg (· || _) hinv.notBroken).trans (Bool.false_or _)
  · refine ⟨_, exec_readerStep s, ?_⟩
    rw [Engine.readerStep_of_collecting _ hr hf hcol, Engine.chainWord_of_other _ hother]
    have hchain : ({ s.engine.countChainBroken with chainBroken := true } : Engine) =
      s.engine.countChainBroken.withChain true s.engine.chainWords s.engine.chainOverflow true := by
      rw [Engine.withChain, ← hcol]; rfl
    rw [hchain]
    refine ⟨?_, stackJudged_finishChain rfl rfl fun _ => rfl⟩
    rw [Engine.finishChain_frame]
    exact hf

/-! ## StackError frames (R315) -/

theorem histKey_injective {s s' : BitVec 4} {line line' : BitVec 16} {f f' : BitVec 4}
    (h : histKey s line f = histKey s' line' f') : s = s' ∧ line = line' ∧ f = f' := by
  have hs := s.isLt; have hs' := s'.isLt; have hl := line.isLt; have hl' := line'.isLt
  have hf := f.isLt; have hf' := f'.isLt
  simp only [histKey, toNat_append] at h
  exact ⟨BitVec.eq_of_toNat_eq (by omega), BitVec.eq_of_toNat_eq (by omega), BitVec.eq_of_toNat_eq (by omega)⟩

/-- A count goes up by one, and no other does (R315). -/
theorem StackErrorCounters.count_bump (c : StackErrorCounters) (s s' : BitVec 4) (line line' : BitVec 16)
    (f f' : BitVec 4) : (c.bump s line f).count s' line' f' =
      c.count s' line' f' + if s' = s ∧ line' = line ∧ f' = f then 1 else 0 := by
  unfold StackErrorCounters.bump
  by_cases h : s' = s ∧ line' = line ∧ f' = f
  · obtain ⟨rfl, rfl, rfl⟩ := h
    rw [if_pos ⟨rfl, rfl, rfl⟩]
    exact Sparse.get_set_self ..
  · rw [if_neg h]
    refine .trans ?_ (BitVec.add_zero _).symm
    exact Sparse.get_set_of_ne _ _ _ _ _ fun hk => h (histKey_injective hk)

/-- Settles O45. -/
theorem stackErrorsAreCounted : Obligations.StackErrorsAreCounted := by
  intro s f n c l pay rest hp hc hr hcol hf hl
  have hexec := exec_of_headFrame (i := .stkerr f n c l) rfl rfl
    ((isGoodHeader_iff ..).mpr (.inr (.inr (typeOf_packHeader ..)))) hc hr hcol hf (by simpa using hl)
  rw [Engine.dispatchFrame_stackErr _ _ _ hp (typeOf_packHeader ..)] at hexec
  cases pay with
  | nil => exact ⟨_, hexec, fun _ => rfl, nofun⟩
  | cons w pay =>
    by_cases hn : 8 ≤ n.toNat
    · rw [Engine.stackErrorFrame, stackNumOf_packHeader, if_pos (show numErrStacks ≤ n.toNat from hn)] at hexec
      exact ⟨_, hexec, fun _ => rfl, fun _ _ h => absurd hn (by omega)⟩
    · rw [Engine.stackErrorFrame, stackNumOf_packHeader, flagsOf_packHeader,
        if_neg (show ¬ numErrStacks ≤ n.toNat from hn)] at hexec
      refine ⟨_, hexec, fun h => absurd h (by simp [hn]), fun v hv _ => ⟨rfl, fun stack line flags => ?_⟩⟩
      obtain rfl : w = v := by simpa using hv
      have hline : line = errorLineOf w ↔ line.toNat = w.toNat % 2 ^ 16 := by
        rw [← BitVec.toNat_inj, errorLineOf, toNat_field_bottom]
      simp only [StackErrorCounters.count_bump, hline]

/-! ## No word stops the reader (R330) -/

/-- The handlers of good headers take nothing from the FIFO. -/
theorem Engine.dispatchFrame_fifo (p : Params) (w : Word) (pay : List Word) (T : Engine) :
    (T.dispatchFrame p w pay).fifo = T.fifo := by
  unfold Engine.dispatchFrame
  split
  · unfold Engine.superReply
    split
    · rfl
    · rfl
    · split
      · split <;> rfl
      · rfl
  · split
    · rw [Engine.stackReply, Engine.openChain_appendChain]
      split
      · rfl
      · rw [Engine.finishChain_frame]; rfl
    · unfold Engine.stackErrorFrame
      split
      · rfl
      · split <;> rfl

theorem Engine.appendChain_fifo (p : Params) (pay : List Word) (T : Engine) :
    (T.appendChain p pay).fifo = T.fifo := by
  induction pay generalizing T with
  | nil => rfl
  | cons x pay ih =>
    rw [Engine.appendChain]
    split <;> rw [ih]

/-- A payload split off the words after its header, where they are there in full. -/
theorem exists_frame {n : Nat} {rest : List Word} (h : n ≤ rest.length) :
    ∃ pay tail, rest = pay ++ tail ∧ pay.length = n :=
  ⟨rest.take n, rest.drop n, (List.take_append_drop ..).symm, List.length_take_of_le h⟩

/-- Settles O46: the cases of R308 and R313, and the room R79 leaves for any single frame. -/
theorem theReaderNeverSticks : Obligations.TheReaderNeverSticks := by
  intro s w rest hp hr hf
  have hroom : 1 + w.toNat % 2 ^ 13 ≤ s.params.cmdFifoWords := by
    have := (legal_limits hp).2.2.1
    omega
  have shorter {T : Engine} {pay tail : List Word} (ht : rest = pay ++ tail) (h : T.fifo = tail) :
      T.fifo.length < s.engine.fifo.length := by
    rw [h, hf, ht, List.length_cons, List.length_append]; omega
  refine ⟨_, exec_readerStep s, ?_⟩
  cases hcol : s.engine.collecting with
  | false =>
    rw [Engine.readerStep_of_not_collecting _ hr hf hcol]
    cases hg : isGoodHeader s.params w with
    | false =>
      rw [Engine.headWord_of_not_good _ hg]
      exact .inl (shorter (pay := []) rfl (by simp [Engine.pop, hf]))
    | true =>
      by_cases hl : rest.length < payloadWords w
      · rw [Engine.headWord_of_incomplete _ hg hf hl]
        exact .inr (.inr ⟨rfl, by rwa [← toNat_payloadWords], hroom⟩)
      · obtain ⟨pay, tail, rfl, hpay⟩ := exists_frame (Nat.not_lt.mp hl)
        rw [Engine.headWord_of_frame _ hg hf hpay]
        exact .inl (shorter rfl (Engine.dispatchFrame_fifo ..))
  | true =>
    rw [Engine.readerStep_of_collecting _ hr hf hcol]
    by_cases hw : typeOf w = 0xF9#8 ∧ stackNumOf w = s.engine.chainStack
    · by_cases hl : rest.length < payloadWords w
      · rw [Engine.chainWord_of_incomplete _ hw hf hl]
        exact .inr (.inr ⟨rfl, by rwa [← toNat_payloadWords], hroom⟩)
      · obtain ⟨pay, tail, rfl, hpay⟩ := exists_frame (Nat.not_lt.mp hl)
        rw [Engine.chainWord_of_frame _ hw hf hpay]
        refine .inl (shorter rfl ?_)
        split
        · exact Engine.appendChain_fifo ..
        · rw [Engine.finishChain_frame]
          exact Engine.appendChain_fifo ..
    · rw [Engine.chainWord_of_other _ hw, Engine.finishChain_frame]
      exact .inr (.inl ⟨rfl, rfl, rfl⟩)

end Sys2Proof.Machine

/-! # The transport, the host and the callers (O47 to O51) -/

namespace Sys2Proof.Machine

/-! ## Shutdown (R320) -/

theorem Slot.disconnect_eq {w : Nat} (x : Slot w) :
    x.disconnect = if x.isPending then .fulfilled (.err .disconnected) else x := by
  cases x <;> rfl

theorem Engine.shutdown_eq (T : Engine) : T.shutdown = T.afterShutdown := by
  simp only [Engine.shutdown, Engine.afterShutdown, Slot.disconnect_eq]
  rfl

theorem Engine.stopCheck_of_request {T : Engine} (h : T.stopReq = true) : T.stopCheck = T.afterShutdown := by
  rw [Engine.stopCheck, if_pos h, Engine.shutdown_eq]

theorem Engine.stopCheck_of_no_request {T : Engine} (h : T.stopReq = false) : T.stopCheck = T :=
  if_neg (by rw [h]; exact Bool.false_ne_true)

/-! ## Transport events (R307, R316, R317) -/

section
variable (p : Params) {T : Engine}

theorem Engine.canDeliver_iff (ws : List Word) :
    T.canDeliver p ws = true ↔ T.running = true ∧ T.fifo.length + ws.length ≤ p.cmdFifoWords := by
  simp [Engine.canDeliver]

theorem Engine.rxWords_of_fits {ws : List Word} (hr : T.running = true)
    (hf : T.fifo.length + ws.length ≤ p.cmdFifoWords) : T.rxWords p ws = (T.push ws).stopCheck :=
  if_pos ((T.canDeliver_iff p ws).mpr ⟨hr, hf⟩)

theorem Engine.rxWords_of_not {ws : List Word} (h : T.running = false ∨ p.cmdFifoWords < T.fifo.length + ws.length) :
    T.rxWords p ws = T := by
  refine if_neg fun hc => ?_
  obtain ⟨hr, hf⟩ := (T.canDeliver_iff p ws).mp hc
  rcases h with h | h
  · rw [h] at hr; cases hr
  · omega

theorem Engine.rxTimeout_of_running (h : T.running = true) : T.rxTimeout = T.countTimeout.stopCheck := if_pos h

theorem Engine.rxTimeout_of_stopped (h : T.running = false) : T.rxTimeout = T := if_neg (by simp [h])

theorem Engine.rxDisconnect_of_running (h : T.running = true) : T.rxDisconnect = T.afterShutdown := by
  rw [Engine.rxDisconnect, if_pos h, Engine.shutdown_eq]

theorem Engine.rxDisconnect_of_stopped (h : T.running = false) : T.rxDisconnect = T := if_neg (by simp [h])

end

theorem exec_rxWords {s : State} {ws : List Word} (h : ws ≠ []) :
    exec (.rxWords ws) s = .next { s with engine := s.engine.rxWords s.params ws } :=
  if_pos (by simp [wellFormed, h])

theorem exec_rxTimeout (s : State) : exec .rxTimeout s = .next { s with engine := s.engine.rxTimeout } := rfl

theorem exec_rxDisconnect (s : State) : exec .rxDisconnect s = .next { s with engine := s.engine.rxDisconnect } := rfl

/-- Settles O47. -/
theorem deliveriesAppendAtTheTail : Obligations.DeliveriesAppendAtTheTail := by
  intro s ws hws
  rw [exec_rxWords hws]
  refine ⟨fun hr hf => ?_, fun h => by rw [Engine.rxWords_of_not _ h]⟩
  rw [Engine.rxWords_of_fits _ hr hf]
  exact ⟨fun hq => by rw [Engine.stopCheck_of_no_request (T := s.engine.push ws) hq]; rfl,
    fun hq => by rw [Engine.stopCheck_of_request (T := s.engine.push ws) hq]; rfl⟩

/-- Settles O48. -/
theorem transportAndHostEventsHaveTheirEffect : Obligations.TransportAndHostEventsHaveTheirEffect := by
  intro s
  rw [exec_rxTimeout, exec_rxDisconnect]
  refine ⟨fun hr => ⟨fun hq => ?timeout, fun hq => ?stop, ?disconnect⟩, fun hr => ⟨?idleTimeout, ?idleDisconnect⟩, rfl,
    .zero, rfl, fun _ _ _ => rfl, rfl⟩
  case timeout => rw [Engine.rxTimeout_of_running hr, Engine.stopCheck_of_no_request (T := s.engine.countTimeout) hq]; rfl
  case stop => rw [Engine.rxTimeout_of_running hr, Engine.stopCheck_of_request (T := s.engine.countTimeout) hq]; rfl
  case disconnect => rw [Engine.rxDisconnect_of_running hr]
  case idleTimeout => rw [Engine.rxTimeout_of_stopped hr]
  case idleDisconnect => rw [Engine.rxDisconnect_of_stopped hr]

/-- Settles O49. -/
theorem submissionsStartACaller : Obligations.SubmissionsStartACaller := fun _ _ _ _ => ⟨rfl, rfl⟩

/-! ## The caller's steps (R301 to R304) -/

/-- Changing an element that is there is writing the changed one. -/
theorem modify_eq_set {α : Type} {l : List α} {k : Nat} {a : α} (f : α → α) (h : l[k]? = some a) :
    l.modify k f = l.set k (f a) := by
  rw [List.modify_eq_set_getElem?, h]; rfl

section
variable {s : State} {c : Nat} {a : Caller}

theorem State.setCallerStep_eq (h : s.callers[c]? = some a) (k : CallerStep) :
    s.setCallerStep c k = { s with callers := s.callers.set c { a with step := k } } := by
  rw [State.setCallerStep, modify_eq_set _ h]

theorem State.callerStep_none (h : s.callers[c]? = none) (ok : Bool) : s.callerStep c ok = s := by
  rw [State.callerStep, h]

/-- What a caller's step is, by where the caller stands (R300). -/
theorem State.callerStep_some (h : s.callers[c]? = some a) (ok : Bool) : s.callerStep c ok =
    match a.step with
    | .start => s.callerStart c
    | .waitSlot => s.callerWaitSlot c a.request
    | .writing => s.callerWriting c a.request a.words ok
    | .waitDone => s.callerTake c a.request
    | .done _ => s := by
  rw [State.callerStep, h]; rfl

/-- The part that a caller's step may change: its own step, the engine's slots, and the writes. -/
def State.callerTo (s : State) (c : Nat) (a : Caller) (k : CallerStep) (T : Engine) : State :=
  { s with callers := s.callers.set c { a with step := k }, engine := T }

theorem State.callerStart_of_running (h : s.callers[c]? = some a) (hr : s.engine.running = true) :
    s.callerStart c = s.callerTo c a .waitSlot s.engine := by
  rw [State.callerStart, if_pos hr, State.setCallerStep_eq h]; rfl

theorem State.callerStart_of_stopped (h : s.callers[c]? = some a) (hr : s.engine.running = false) :
    s.callerStart c = s.callerTo c a (.done (.err .disconnected)) s.engine := by
  rw [State.callerStart, if_neg (by simp [hr]), State.setCallerStep_eq h]; rfl

theorem State.callerWaitSlot_of_stopped (h : s.callers[c]? = some a) (hr : s.engine.running = false) (q : Request) :
    s.callerWaitSlot c q = s.callerTo c a (.done (.err .disconnected)) s.engine := by
  rw [State.callerWaitSlot, if_neg (by simp [hr]), State.setCallerStep_eq h]; rfl

theorem State.callerWaitSlot_of_free (h : s.callers[c]? = some a) (hr : s.engine.running = true) {q : Request}
    (hf : s.engine.slotFree q = true) :
    s.callerWaitSlot c q = s.callerTo c a .writing (s.engine.install q) := by
  rw [State.callerWaitSlot, if_pos hr, if_pos hf, State.setCallerStep_eq (s := s.withEngine (s.engine.install q)) h]; rfl

theorem State.callerWaitSlot_of_taken (hr : s.engine.running = true) {q : Request}
    (hf : s.engine.slotFree q = false) (c : Nat) : s.callerWaitSlot c q = s := by
  rw [State.callerWaitSlot, if_pos hr, if_neg (by simp [hf])]

theorem State.callerTake_of_result (h : s.callers[c]? = some a) {q : Request} {r : TxResult}
    (hr : s.engine.slotResult q = some r) :
    s.callerTake c q = s.callerTo c a (.done r) (s.engine.release q) := by
  rw [State.callerTake, hr]
  exact State.setCallerStep_eq (s := s.withEngine (s.engine.release q)) h (.done r)

theorem State.callerTake_of_none {q : Request} (hr : s.engine.slotResult q = none) (c : Nat) :
    s.callerTake c q = s := by
  rw [State.callerTake, hr]

theorem State.callerWriting_of_ok (h : s.callers[c]? = some a) (q : Request) (ws : List Word) :
    s.callerWriting c q ws true = (s.recordWrite ws true).callerTo c a .waitDone s.engine := by
  rw [State.callerWriting, if_pos rfl, State.setCallerStep_eq (s := s.recordWrite ws true) h]; rfl

theorem State.callerWriting_of_pending (h : s.callers[c]? = some a) {q : Request}
    (hp : s.engine.slotPending q = true) (ws : List Word) : s.callerWriting c q ws false =
      (s.recordWrite ws false).callerTo c a (.done (.err .writeFailed)) (s.engine.release q) := by
  rw [State.callerWriting, if_neg Bool.false_ne_true, State.recordWrite_engine, if_pos hp,
    State.setCallerStep_eq (s := (s.recordWrite ws false).withEngine (s.engine.release q)) h]
  rfl

theorem State.callerWriting_of_not_pending {q : Request} (hp : s.engine.slotPending q = false) (c : Nat)
    (ws : List Word) : s.callerWriting c q ws false = (s.recordWrite ws false).callerTake c q := by
  rw [State.callerWriting, if_neg Bool.false_ne_true, State.recordWrite_engine, if_neg (by simp [hp])]

end

theorem Slot.isFree_iff {w : Nat} (x : Slot w) : x.isFree = true ↔ x = .free := by cases x <;> simp [Slot.isFree]

theorem Slot.isFree_eq_false {w : Nat} {x : Slot w} (h : x ≠ .free) : x.isFree = false :=
  Bool.eq_false_iff.mpr fun hf => h (x.isFree_iff.mp hf)

theorem Slot.resultOf_eq_none {w : Nat} {x : Slot w} (h : ∀ r, x ≠ .fulfilled r) : x.resultOf = none := by
  cases x with
  | free => rfl
  | pending ref => rfl
  | fulfilled r => exact absurd rfl (h r)

/-- Settles O50. -/
theorem callersTakeTheirSlotAndItsResult : Obligations.CallersTakeTheirSlotAndItsResult := by
  intro s c r16 r32 ws ok
  refine ⟨fun at_ hat h => ?start, fun h => ⟨fun hr => ?_, fun hr hf => ?_, fun hr hf => ?_⟩,
    fun h => ⟨fun hr => ?_, fun hr hf => ?_, fun hr hf => ?_⟩,
    fun h => ⟨fun res hres => ?_, fun hres => ?_⟩, fun h => ⟨fun res hres => ?_, fun hres => ?_⟩⟩
  case start =>
    simp only [List.mem_cons, List.not_mem_nil, or_false] at hat
    rw [State.callerStep_some h]
    rcases hat with rfl | rfl
    · exact ⟨fun hr => State.callerStart_of_running h hr, fun hr => State.callerStart_of_stopped h hr⟩
    · exact ⟨fun hr => State.callerStart_of_running h hr, fun hr => State.callerStart_of_stopped h hr⟩
  all_goals rw [State.callerStep_some h]; dsimp only
  · exact State.callerWaitSlot_of_stopped h hr _
  · exact State.callerWaitSlot_of_free h hr ((Slot.isFree_iff _).mpr hf)
  · exact State.callerWaitSlot_of_taken (q := .super r16) hr (Slot.isFree_eq_false hf) c
  · exact State.callerWaitSlot_of_stopped h hr _
  · exact State.callerWaitSlot_of_free h hr ((Slot.isFree_iff _).mpr hf)
  · exact State.callerWaitSlot_of_taken (q := .stack r32) hr (Slot.isFree_eq_false hf) c
  · exact State.callerTake_of_result h (congrArg Slot.resultOf hres)
  · exact State.callerTake_of_none (q := .super r16) (Slot.resultOf_eq_none hres) c
  · exact State.callerTake_of_result h (congrArg Slot.resultOf hres)
  · exact State.callerTake_of_none (q := .stack r32) (Slot.resultOf_eq_none hres) c

/-- Settles O51. -/
theorem writingEndsAsTheTransportSays : Obligations.WritingEndsAsTheTransportSays := by
  intro s c r16 r32 ws
  constructor <;> intro h <;> rw [State.callerStep_some h, State.callerStep_some h] <;> dsimp only
  · refine ⟨State.callerWriting_of_ok h _ ws, fun hp => State.callerWriting_of_pending (q := .super r16) h hp ws, fun res hres => ?_⟩
    rw [State.callerWriting_of_not_pending (q := .super r16) (congrArg Slot.isPending hres) c ws]
    exact State.callerTake_of_result (s := s.recordWrite ws false) h (congrArg Slot.resultOf hres)
  · refine ⟨State.callerWriting_of_ok h _ ws, fun hp => State.callerWriting_of_pending (q := .stack r32) h hp ws, fun res hres => ?_⟩
    rw [State.callerWriting_of_not_pending (q := .stack r32) (congrArg Slot.isPending hres) c ws]
    exact State.callerTake_of_result (s := s.recordWrite ws false) h (congrArg Slot.resultOf hres)

end Sys2Proof.Machine

/-! # What a step can do: the words of an open call, and the transitions of the schedule (O26) -/

namespace Sys2Proof.Machine

/-! ## The words of an open call (R240, R185) -/

/-- Where the word read next stands, by the stage of the call (R75, R110). -/
theorem Parser.nextWord_eq_eth0_iff {P : Parser} {w : Word} : P.nextWord = some (.ethWord0, w) ↔
    ∃ rest, P.call.stage = .ethHeader0 (w :: rest) := by
  unfold Parser.nextWord
  split <;> rename_i h <;> rw [h]
  case h_4 rest => cases rest <;> simp
  all_goals simp

theorem Parser.nextWord_eq_eth1_iff {P : Parser} {w : Word} : P.nextWord = some (.ethWord1, w) ↔
    ∃ w0 rest, P.call.stage = .ethHeader1 w0 (w :: rest) := by
  unfold Parser.nextWord
  split <;> rename_i h <;> rw [h]
  case h_5 w0 rest => cases rest <;> simp
  all_goals simp

/-- A frame word that is read, of whatever type, is an iteration of the loop (R111, R240). -/
theorem step_of_frameWord {s : State} {w : Word} (h : s.parser.nextWord = some (.frame, w)) :
    step s = .next (s.afterWord (s.parser.unitWord s.params w)) := by
  simp only [step, State.fetch_word h]
  split
  · rename_i i hi
    obtain ⟨henc, hpos, -⟩ := encode_decodeAt s.params .frame w i hi
    rw [exec_eq_frameWordStep henc hpos, frameWordStep_of_nextWord h]
  · exact frameWordStep_of_nextWord h

theorem exec_eth0 {s : State} {ch : BitVec 4} {n : BitVec 12} {g : BitVec 3} {d : BitVec 13} {rest : List Word}
    (h : s.parser.call.stage = .ethHeader0 (packEth0 ch n g d :: rest)) : exec (.eth0 ch n g d) s =
      .next (s.withParser (s.parser.ethWord0 (packEth0 ch n g d) (packEth0 ch n g d :: rest))) := by
  have hn := Parser.nextWord_eq_eth0_iff.mpr ⟨rest, h⟩
  change execEth0 ch n g d s = _
  simp only [execEth0, if_pos hn, Parser.packetRest, h]

theorem exec_eth1 {s : State} {w0 : Word} {ts : BitVec 20} {hp : BitVec 12} {rest : List Word}
    (h : s.parser.call.stage = .ethHeader1 w0 (packEth1 ts hp :: rest)) : exec (.eth1 ts hp) s =
      .next (s.afterWord (s.parser.ethWord1 w0 hp (packEth1 ts hp :: rest))) := by
  have hn := Parser.nextWord_eq_eth1_iff.mpr ⟨w0, rest, h⟩
  change execEth1 ts hp s = _
  simp only [execEth1, if_pos hn, Parser.packetRest, Parser.packetWord0, h]

theorem step_of_eth0 {s : State} {w : Word} {rest : List Word} (h : s.parser.call.stage = .ethHeader0 (w :: rest)) :
    step s = .next (s.withParser (s.parser.ethWord0 w (w :: rest))) := by
  have hn := Parser.nextWord_eq_eth0_iff.mpr ⟨rest, h⟩
  have hexec := exec_eth0 (s := s) (ch := field w 28 4) (n := field w 16 12) (g := field w 13 3) (d := field w 0 13)
    (rest := rest) (by rw [packEth0_fields, h])
  rw [packEth0_fields] at hexec
  simp only [step, State.fetch_word hn, decodeAt, hexec]

theorem step_of_eth1 {s : State} {w0 w : Word} {rest : List Word}
    (h : s.parser.call.stage = .ethHeader1 w0 (w :: rest)) :
    step s = .next (s.afterWord (s.parser.ethWord1 w0 (field w 0 12) (w :: rest))) := by
  have hn := Parser.nextWord_eq_eth1_iff.mpr ⟨w0, rest, h⟩
  have hexec := exec_eth1 (s := s) (ts := field w 12 20) (hp := field w 0 12) (w0 := w0)
    (rest := rest) (by rw [packEth1_fields, h])
  rw [packEth1_fields] at hexec
  simp only [step, State.fetch_word hn, decodeAt, hexec]

/-- A header instruction read by the open call does what the step does. -/
theorem exec_eq_step_of_reads {s : State} {i : Instr} (h : s.Reads i) : exec i s = step s := by
  obtain ⟨w, hw, hn⟩ := h.word
  cases i with
  | eth0 ch n g d =>
    cases hw
    obtain ⟨rest, hst⟩ := Parser.nextWord_eq_eth0_iff.mp hn
    rw [exec_eth0 hst, step_of_eth0 hst]
  | eth1 ts hp =>
    cases hw
    obtain ⟨w0, rest, hst⟩ := Parser.nextWord_eq_eth1_iff.mp hn
    rw [exec_eth1 hst, step_of_eth1 hst, pointer_packEth1]
  | _ => rw [exec_eq_frameWordStep hw rfl, frameWordStep_of_nextWord hn, step_of_frameWord hn]

/-- Settles O26. -/
theorem noWordStopsTheParser : Obligations.NoWordStopsTheParser := by
  intro s pos w h
  refine ⟨?_, fun hp => step_of_frameWord (hp ▸ h), fun i hi => exec_eq_step_of_reads hi⟩
  cases pos with
  | frame => exact ⟨_, step_of_frameWord h⟩
  | ethWord0 => obtain ⟨rest, hst⟩ := Parser.nextWord_eq_eth0_iff.mp h; exact ⟨_, step_of_eth0 hst⟩
  | ethWord1 => obtain ⟨w0, rest, hst⟩ := Parser.nextWord_eq_eth1_iff.mp h; exact ⟨_, step_of_eth1 hst⟩

/-! ## The transitions -/

/-- The parser after a word: where the call is over, its bookkeeping is gone (R33). -/
def Parser.closing (r : Parser × Bool) : Parser := if r.2 then r.1.endCall else r.1

/-- What a transition that stays in the session does to its parser. -/
inductive ParserMove (p : Params) (P : Parser) : Parser → Prop where
  | word {w : Word} : P.nextWord = some (.frame, w) → ParserMove p P (Parser.closing (P.unitWord p w))
  | eth0 {w : Word} {rest : List Word} : P.call.stage = .ethHeader0 (w :: rest) →
      ParserMove p P (P.ethWord0 w (w :: rest))
  | eth1 {w0 w : Word} {rest : List Word} : P.call.stage = .ethHeader1 w0 (w :: rest) →
      ParserMove p P (Parser.closing (P.ethWord1 w0 (field w 0 12) (w :: rest)))
  | parseUsb (n : BitVec 32) (W : List Word) : P.callOpen = false → P.session = true →
      ParserMove p P (P.parseUsb p n W).endCall
  | parseEth (n : BitVec 32) (W : List Word) : P.callOpen = false → P.session = true →
      ParserMove p P (P.parseEth p n W).endCall
  | feedUsb (n : BitVec 32) (W : List Word) : P.callOpen = false → P.session = true →
      ParserMove p P (Parser.closing (P.beginUsb n W))
  | feedEth (n : BitVec 32) (W : List Word) : P.callOpen = false → P.session = true →
      ParserMove p P (Parser.closing (P.beginEth n W))
  | endOfStream : P.callOpen = false → P.session = true → ParserMove p P P.endOfStream

/-- What an instruction that acts on the correlator does to the engine. -/
inductive EngineMove (p : Params) (T : Engine) : Instr → Engine → Prop where
  | reader (i : Instr) : EngineMove p T i (T.readerStep p)
  | rxWords (ws : List Word) : EngineMove p T (.rxWords ws) (T.rxWords p ws)
  | rxTimeout : EngineMove p T .rxTimeout T.rxTimeout
  | rxDisconnect : EngineMove p T .rxDisconnect T.rxDisconnect
  | requestStop : EngineMove p T .requestStop { T with stopReq := true }
  | clearStackErrors : EngineMove p T .clearStackErrorCounters { T with stackErrors := .zero }

/-- What an entry of the schedule can do where it has a next state. -/
inductive Transition (s : State) : Event → State → Prop where
  | result (e : Event) (r : OpResult) : Transition s e { s with result := r }
  | parser (e : Event) {P : Parser} (r : OpResult) : ParserMove s.params s.parser P →
      Transition s e { s with parser := P, result := r }
  | sessionReset (rs : ReadoutStructure) : s.parser.callOpen = false → ReadoutStructure.legal s.params rs = true →
      Transition s (.op (.sessionReset rs)) { s with
        parser := .afterReset true rs, otherSessions := s.sessionsKept }
  | engine {i : Instr} {T : Engine} : EngineMove s.params s.engine i T → Transition s (.op i) { s with engine := T }
  | engineConstruct : Transition s (.op .engineConstruct) { s with
      engine := .constructed, callers := [], otherEngines := s.correlator :: s.otherEngines }
  | submit (e : Event) (q : Request) (ws : List Word) : Transition s e (s.submit q ws)
  | caller (c : Nat) (ok : Bool) : Transition s (.caller c ok) (s.callerStep c ok)
  | turnToEngine (k : Nat) : Transition s (.turnToEngine k) (s.turnToEngine k)
  | turnToSession (k : Nat) : Transition s (.turnToSession k) (s.turnToSession k)

theorem State.afterWord_eq (s : State) (r : Parser × Bool) : s.afterWord r =
    { s with parser := Parser.closing r, result := (s.afterWord r).result } := by
  unfold State.afterWord Parser.closing
  split <;> rfl

theorem Transition.afterWord {s : State} (e : Event) {r : Parser × Bool}
    (h : ParserMove s.params s.parser (Parser.closing r)) : Transition s e (s.afterWord r) := by
  rw [State.afterWord_eq]
  exact .parser e _ h

/-- A word executed as a frame word is read by the open call, or by the reader at the head of its FIFO. -/
theorem transition_of_frameWordStep {s t : State} {w : Word} {i : Instr} (h : frameWordStep w s = .next t) :
    Transition s (.op i) t := by
  unfold frameWordStep at h
  split at h
  · split at h
    · rename_i hn
      cases h
      exact .afterWord _ (.word hn)
    · cases h
  · split at h
    · rename_i hhead
      cases h
      rw [← Engine.readerStep_of_head _ hhead]
      exact .engine (.reader i)
    · cases h

/-- What an instruction can do where it has a next state. -/
theorem transition_of_exec {s t : State} {i : Instr} (h : exec i s = .next t) : Transition s (.op i) t := by
  cases i with
  | eth0 ch n g d =>
    by_cases hr : s.parser.nextWord = some (.ethWord0, packEth0 ch n g d)
    · obtain ⟨rest, hst⟩ := Parser.nextWord_eq_eth0_iff.mp hr
      rw [exec_eth0 hst] at h
      cases h
      exact .parser _ _ (.eth0 hst)
    · rw [show exec (.eth0 ch n g d) s = .refused .notAtThisPosition from if_neg hr] at h
      cases h
  | eth1 ts hp =>
    by_cases hr : s.parser.nextWord = some (.ethWord1, packEth1 ts hp)
    · obtain ⟨w0, rest, hst⟩ := Parser.nextWord_eq_eth1_iff.mp hr
      rw [exec_eth1 hst] at h
      cases h
      have hmove := ParserMove.eth1 (p := s.params) hst
      rw [pointer_packEth1] at hmove
      exact .afterWord _ hmove
    · rw [show exec (.eth1 ts hp) s = .refused .notAtThisPosition from if_neg hr] at h
      cases h
  | sessionReset rs =>
    obtain ⟨hc, h⟩ := State.exclusive_eq_next _ h
    split at h
    · rename_i hrs
      cases h
      exact .sessionReset rs hc hrs
    · cases h
  | parseUsbBuffer n W =>
    obtain ⟨hc, hs, h⟩ := State.inSession_eq_next _ h
    cases h
    exact .parser _ _ (.parseUsb n W hc hs)
  | parseEthBuffer n W =>
    obtain ⟨hc, hs, h⟩ := State.inSession_eq_next _ h
    cases h
    exact .parser _ _ (.parseEth n W hc hs)
  | endOfStream =>
    obtain ⟨hc, hs, h⟩ := State.inSession_eq_next _ h
    cases h
    exact .parser _ _ (.endOfStream hc hs)
  | readParserCounters =>
    obtain ⟨-, h⟩ := State.exclusive_eq_next _ h
    cases h
    exact .result _ _
  | rxWords ws =>
    by_cases hw : wellFormed s.params (.rxWords ws) = true
    · rw [show exec (.rxWords ws) s = .next _ from if_pos hw] at h
      cases h
      exact .engine (.rxWords ws)
    · rw [show exec (.rxWords ws) s = .refused .operandOutOfRange from if_neg hw] at h
      cases h
  | generateEvent ev k mods m =>
    by_cases hw : wellFormed s.params (.generateEvent ev k mods m) = true
    · rw [show exec (.generateEvent ev k mods m) s = .next _ from if_pos hw] at h
      cases h
      exact .result _ _
    · rw [show exec (.generateEvent ev k mods m) s = .refused .operandOutOfRange from if_neg hw] at h
      cases h
  | generateSystemEvent hdr pay m =>
    by_cases hw : wellFormed s.params (.generateSystemEvent hdr pay m) = true
    · rw [show exec (.generateSystemEvent hdr pay m) s = .next _ from if_pos hw] at h
      cases h
      exact .result _ _
    · rw [show exec (.generateSystemEvent hdr pay m) s = .refused .operandOutOfRange from if_neg hw] at h
      cases h
  | engineConstruct => cases h; exact .engineConstruct
  | submitSuperTransaction ref ws => cases h; exact .submit _ _ _
  | submitStackTransaction ref ws => cases h; exact .submit _ _ _
  | readerStep => cases h; exact .engine (.reader _)
  | rxTimeout => cases h; exact .engine .rxTimeout
  | rxDisconnect => cases h; exact .engine .rxDisconnect
  | requestStop => cases h; exact .engine .requestStop
  | clearStackErrorCounters => cases h; exact .engine .clearStackErrors
  | stack | cont | block | super | stkerr | sysev => exact transition_of_frameWordStep h
  | decodeHeader | encodeHeader | isGoodHeader | frameKind | decodeSyseventHeader | encodeSyseventHeader | hasContinue
  | decodeEthHeader | buildReadoutStructure | readEngineCounters => cases h; exact .result _ _

/-- What a step is: a word of the open call, else the next entry of the schedule, else a step of the reader. -/
inductive Stepped (s : State) : State → Prop where
  | word {pos : Position} {w : Word} {P : Parser} (r : OpResult) : s.parser.nextWord = some (pos, w) →
      ParserMove s.params s.parser P → Stepped s { s with parser := P, result := r }
  | reader : s.parser.nextWord = none → s.schedule = [] →
      Stepped s { s with engine := s.engine.readerStep s.params }
  | event {e : Event} {es : List Event} {t : State} : s.parser.nextWord = none → s.schedule = e :: es →
      Transition { s with schedule := es } e t → Stepped s t

/-- Says once what a step can do; every invariant is derived from it. -/
theorem stepped_of_step {s t : State} (h : step s = .next t) : Stepped s t := by
  cases hn : s.parser.nextWord with
  | some x =>
    obtain ⟨pos, w⟩ := x
    cases pos with
    | frame =>
      rw [step_of_frameWord hn] at h
      cases h
      rw [State.afterWord_eq]
      exact .word _ hn (.word hn)
    | ethWord0 =>
      obtain ⟨rest, hst⟩ := Parser.nextWord_eq_eth0_iff.mp hn
      rw [step_of_eth0 hst] at h
      cases h
      exact .word _ hn (.eth0 hst)
    | ethWord1 =>
      obtain ⟨w0, rest, hst⟩ := Parser.nextWord_eq_eth1_iff.mp hn
      rw [step_of_eth1 hst] at h
      cases h
      rw [State.afterWord_eq]
      exact .word _ hn (.eth1 hst)
  | none =>
    cases hs : s.schedule with
    | nil =>
      simp only [step, State.fetch_reader hn hs] at h
      cases h
      exact .reader hn hs
    | cons e es =>
      refine .event hn hs ?_
      simp only [step, State.fetch_event hn hs] at h
      cases e with
      | op i => exact transition_of_exec h
      | caller c ok => cases h; exact .caller c ok
      | turnToEngine k => cases h; exact .turnToEngine k
      | turnToSession k => cases h; exact .turnToSession k
      | feedUsb n W =>
        obtain ⟨hc, hs, h⟩ := State.inSession_eq_next _ h
        cases h
        exact .afterWord _ (.feedUsb n W hc hs)
      | feedEth n W =>
        obtain ⟨hc, hs, h⟩ := State.inSession_eq_next _ h
        cases h
        exact .afterWord _ (.feedEth n W hc hs)

end Sys2Proof.Machine

/-! # The correlator's invariants, in every engine (O57, O59, O60) -/

namespace Sys2Proof.Machine

/-! ## What a caller's step can do (R300 to R304) -/

/-- What a caller's step can do to the machine, with the writes it records. -/
inductive CallerMove (s : State) (c : Nat) : State → Prop where
  | waits (ws : List WriteRecord) : CallerMove s c { s with written := s.written ++ ws }
  | goesOn {a : Caller} (k : CallerStep) (ws : List WriteRecord) : s.callers[c]? = some a →
      Caller.inFlight { a with step := k } = a.inFlight →
      CallerMove s c { s.callerTo c a k s.engine with written := s.written ++ ws }
  | takesSlot {a : Caller} : s.callers[c]? = some a → a.inFlight = false → s.engine.running = true →
      s.engine.slotFree a.request = true → CallerMove s c (s.callerTo c a .writing (s.engine.install a.request))
  | freesSlot {a : Caller} (r : TxResult) (ws : List WriteRecord) : s.callers[c]? = some a → a.inFlight = true →
      CallerMove s c { s.callerTo c a (.done r) (s.engine.release a.request) with written := s.written ++ ws }

theorem CallerMove.refl (s : State) (c : Nat) : CallerMove s c s := by
  have h := CallerMove.waits (s := s) (c := c) []
  rwa [List.append_nil] at h

theorem CallerMove.goesOnQuietly {s : State} {c : Nat} {a : Caller} (k : CallerStep) (h : s.callers[c]? = some a)
    (hf : Caller.inFlight { a with step := k } = a.inFlight) : CallerMove s c (s.callerTo c a k s.engine) := by
  have h := CallerMove.goesOn k [] h hf
  rwa [List.append_nil] at h

/-- Taking a result frees the slot, and without one the caller waits (R303, R304). -/
theorem callerMove_take {s : State} {c : Nat} {a : Caller} (h : s.callers[c]? = some a) (hf : a.inFlight = true)
    (ws : List WriteRecord) :
    CallerMove s c (State.callerTake { s with written := s.written ++ ws } c a.request) := by
  cases hr : s.engine.slotResult a.request with
  | none =>
    rw [State.callerTake_of_none (s := { s with written := s.written ++ ws }) hr]
    exact .waits ws
  | some r =>
    rw [State.callerTake_of_result (s := { s with written := s.written ++ ws }) h hr]
    exact .freesSlot r ws h hf

theorem callerMove_callerStep (s : State) (c : Nat) (ok : Bool) : CallerMove s c (s.callerStep c ok) := by
  cases hc : s.callers[c]? with
  | none => rw [State.callerStep_none hc]; exact .refl s c
  | some a =>
    rw [State.callerStep_some hc]
    obtain ⟨q, ws, k⟩ := a
    cases k with
    | start =>
      cases hr : s.engine.running with
      | true => rw [State.callerStart_of_running hc hr]; exact .goesOnQuietly _ hc rfl
      | false => rw [State.callerStart_of_stopped hc hr]; exact .goesOnQuietly _ hc rfl
    | waitSlot =>
      cases hr : s.engine.running with
      | false => dsimp only; rw [State.callerWaitSlot_of_stopped hc hr]; exact .goesOnQuietly _ hc rfl
      | true =>
        cases hf : s.engine.slotFree q with
        | true => dsimp only; rw [State.callerWaitSlot_of_free hc hr hf]; exact .takesSlot hc rfl hr hf
        | false => dsimp only; rw [State.callerWaitSlot_of_taken hr hf]; exact .refl s c
    | writing =>
      dsimp only
      cases ok with
      | true => rw [State.callerWriting_of_ok hc]; exact .goesOn .waitDone [⟨ws, true⟩] hc rfl
      | false =>
        cases hp : s.engine.slotPending q with
        | true =>
          rw [State.callerWriting_of_pending hc hp]
          exact .freesSlot (.err .writeFailed) [⟨ws, false⟩] hc rfl
        | false =>
          rw [State.callerWriting_of_not_pending hp]
          exact callerMove_take hc rfl [⟨ws, false⟩]
    | waitDone =>
      have h := callerMove_take hc rfl []
      rwa [List.append_nil] at h
    | done r => exact .refl s c

/-- A caller's step leaves all but its engine, its list of callers and the writes, which it appends to. -/
theorem CallerMove.frame {s t : State} {c : Nat} (h : CallerMove s c t) :
    ∃ ws, t = { s with engine := t.engine, callers := t.callers, written := s.written ++ ws } := by
  cases h with
  | waits ws => exact ⟨ws, rfl⟩
  | goesOn k ws => exact ⟨ws, rfl⟩
  | takesSlot => exact ⟨[], by rw [List.append_nil]; rfl⟩
  | freesSlot r ws => exact ⟨ws, rfl⟩

theorem CallerMove.otherEngines {s t : State} {c : Nat} (h : CallerMove s c t) :
    t.otherEngines = s.otherEngines := by
  obtain ⟨ws, ht⟩ := h.frame
  rw [ht]

/-! ## Mutual exclusion (R305) -/

/-- A slot after the reader or a shutdown: as it was, or a pending transaction has its result (R319, R320). -/
def Slot.Answers {w : Nat} (x y : Slot w) : Prop := y = x ∨ ∃ ref r, x = .pending ref ∧ y = .fulfilled r

theorem Slot.Answers.refl {w : Nat} (x : Slot w) : x.Answers x := .inl rfl

theorem Slot.answers_disconnect {w : Nat} (x : Slot w) : x.Answers x.disconnect := by
  cases x with
  | free => exact .inl rfl
  | pending ref => exact .inr ⟨ref, _, rfl, rfl⟩
  | fulfilled r => exact .inl rfl

/-- Both slots of an engine. -/
def Engine.Answers (T U : Engine) : Prop := T.slotSuper.Answers U.slotSuper ∧ T.slotStack.Answers U.slotStack

theorem Engine.Answers.of_eq {T U : Engine} (h : U.slotSuper = T.slotSuper) (h' : U.slotStack = T.slotStack) :
    T.Answers U := ⟨.inl h, .inl h'⟩

theorem Engine.answers_shutdown (T : Engine) : T.Answers T.shutdown :=
  ⟨T.slotSuper.answers_disconnect, T.slotStack.answers_disconnect⟩

theorem Engine.answers_stopCheck (T : Engine) : T.Answers T.stopCheck := by
  unfold Engine.stopCheck
  split
  · exact T.answers_shutdown
  · exact .of_eq rfl rfl

/-- A judgement of a reply leaves the super slot, and answers the stack slot (R314). -/
theorem Engine.answers_finishChain (T : Engine) : T.Answers T.finishChain := by
  have hT : T = T.withChain T.collecting T.chainWords T.chainOverflow T.chainBroken := rfl
  refine ⟨.inl (by rw [Engine.finishChain_frame]; rfl), ?_⟩
  cases hs : T.slotStack with
  | pending ref =>
    rw [hT, Engine.finishChain_of_pending _ _ _ _ hs]
    refine .inr ⟨ref, ?_⟩
    split <;> exact ⟨_, rfl, rfl⟩
  | free => rw [hT, Engine.finishChain_of_not_pending _ _ _ _ (by rw [hs]; rfl)]; exact .inl hs
  | fulfilled r => rw [hT, Engine.finishChain_of_not_pending _ _ _ _ (by rw [hs]; rfl)]; exact .inl hs

theorem Engine.appendChain_slots (p : Params) (pay : List Word) (T : Engine) :
    (T.appendChain p pay).slotSuper = T.slotSuper ∧ (T.appendChain p pay).slotStack = T.slotStack := by
  induction pay generalizing T with
  | nil => exact ⟨rfl, rfl⟩
  | cons x pay ih => rw [Engine.appendChain]; split <;> exact ih _

theorem Engine.answers_superReply (p : Params) (pay : List Word) (T : Engine) : T.Answers (T.superReply p pay) := by
  unfold Engine.superReply
  split
  · exact .of_eq rfl rfl
  · exact .of_eq rfl rfl
  · rename_i ref hs
    refine ⟨.inr ⟨ref, ?_⟩, .inl ?_⟩
    · split
      · split <;> exact ⟨_, hs, rfl⟩
      · exact ⟨_, hs, rfl⟩
    · split
      · split <;> rfl
      · rfl

theorem Engine.answers_dispatchFrame (p : Params) (w : Word) (pay : List Word) (T : Engine) :
    T.Answers (T.dispatchFrame p w pay) := by
  unfold Engine.dispatchFrame
  split
  · exact T.answers_superReply p pay
  · split
    · rw [Engine.stackReply, Engine.openChain_appendChain]
      split
      · exact .of_eq rfl rfl
      · exact Engine.answers_finishChain _
    · unfold Engine.stackErrorFrame
      split
      · exact .of_eq rfl rfl
      · split <;> exact .of_eq rfl rfl

theorem Engine.answers_readerStep (p : Params) (T : Engine) : T.Answers (T.readerStep p) := by
  unfold Engine.readerStep
  split
  · exact .of_eq rfl rfl
  · rename_i w rest hf
    unfold Engine.readerWord
    split
    · split
      · unfold Engine.chainWord
        split
        · split
          · have hslots := Engine.appendChain_slots p (payloadOf T.fifo w) (T.pop (1 + payloadWords w))
            dsimp only
            split
            · exact .of_eq hslots.1 hslots.2
            · have h := Engine.answers_finishChain ((T.pop (1 + payloadWords w)).appendChain p (payloadOf T.fifo w))
              rwa [Engine.Answers, hslots.1, hslots.2] at h
          · exact .of_eq rfl rfl
        · exact Engine.answers_finishChain { T.countChainBroken with chainBroken := true }
      · unfold Engine.headWord
        split
        · exact .of_eq rfl rfl
        · split
          · exact Engine.answers_dispatchFrame p w _ (T.pop (1 + payloadWords w))
          · exact .of_eq rfl rfl
    · exact .of_eq rfl rfl

/-- No operation on an engine frees a slot or takes one: it only answers pending ones. -/
theorem EngineMove.answers {p : Params} {T U : Engine} {i : Instr} (h : EngineMove p T i U) : T.Answers U := by
  cases h with
  | reader => exact T.answers_readerStep p
  | rxWords ws =>
    unfold Engine.rxWords
    split
    · exact Engine.answers_stopCheck (T.push ws)
    · exact .of_eq rfl rfl
  | rxTimeout =>
    unfold Engine.rxTimeout
    split
    · exact Engine.answers_stopCheck T.countTimeout
    · exact .of_eq rfl rfl
  | rxDisconnect =>
    unfold Engine.rxDisconnect
    split
    · exact T.answers_shutdown
    · exact .of_eq rfl rfl
  | requestStop => exact .of_eq rfl rfl
  | clearStackErrors => exact .of_eq rfl rfl

/-- A slot of either kind and the callers in flight that want it (R305). -/
def SlotHolds {w : Nat} (kind : BitVec w → Request) (x : Slot w) (flying : List Caller) : Prop :=
  match x with
  | .free => flying = []
  | .pending ref => ∃ a, flying = [a] ∧ a.request = kind ref
  | .fulfilled _ => ∃ a, flying = [a]

theorem Correlator.superExclusion_iff (c : Correlator) :
    c.superExclusion ↔ SlotHolds .super c.engine.slotSuper c.superInFlight := by
  unfold Correlator.superExclusion SlotHolds; cases c.engine.slotSuper <;> rfl

theorem Correlator.stackExclusion_iff (c : Correlator) :
    c.stackExclusion ↔ SlotHolds .stack c.engine.slotStack c.stackInFlight := by
  unfold Correlator.stackExclusion SlotHolds; cases c.engine.slotStack <;> rfl

theorem SlotHolds.answers {w : Nat} {kind : BitVec w → Request} {x y : Slot w} {flying : List Caller}
    (h : SlotHolds kind x flying) (ha : x.Answers y) : SlotHolds kind y flying := by
  rcases ha with rfl | ⟨ref, r, rfl, rfl⟩
  · exact h
  · obtain ⟨a, ha, -⟩ := h
    exact ⟨a, ha⟩

/-- With a caller in flight the slot is not free, and that caller is the only one. -/
theorem SlotHolds.eq_singleton {w : Nat} {kind : BitVec w → Request} {x : Slot w} {flying : List Caller} {a : Caller}
    (h : SlotHolds kind x flying) (ha : a ∈ flying) : x ≠ .free ∧ flying = [a] := by
  cases x with
  | free => rw [show flying = [] from h] at ha; cases ha
  | pending ref => obtain ⟨b, rfl, -⟩ := h; exact ⟨nofun, by rw [List.mem_singleton.mp ha]⟩
  | fulfilled r => obtain ⟨b, rfl⟩ := h; exact ⟨nofun, by rw [List.mem_singleton.mp ha]⟩

/-- Writing one element changes a filtered list in one place only. -/
theorem filter_set {l : List Caller} {k : Nat} {a : Caller} (h : l[k]? = some a) (b : Caller) (f : Caller → Bool) :
    ∃ l₁ l₂, l.filter f = l₁ ++ [a].filter f ++ l₂ ∧ (l.set k b).filter f = l₁ ++ [b].filter f ++ l₂ := by
  obtain ⟨hk, rfl⟩ := List.getElem?_eq_some_iff.mp h
  refine ⟨(l.take k).filter f, (l.drop (k + 1)).filter f, ?_, ?_⟩
  · conv => lhs; rw [← List.take_append_drop k l, List.drop_eq_getElem_cons hk]
    rw [← List.filter_append, ← List.filter_append, List.append_assoc]
    rfl
  · rw [List.set_eq_take_append_cons_drop, if_pos hk, ← List.filter_append, ← List.filter_append, List.append_assoc]
    rfl

section
variable {l : List Caller} {k : Nat} {a b : Caller} (f : Caller → Bool) (h : l[k]? = some a)
include h

theorem filter_set_of_out (ha : f a = false) (hb : f b = false) : (l.set k b).filter f = l.filter f := by
  obtain ⟨l₁, l₂, hl, hs⟩ := filter_set h b f
  rw [hl, hs, List.filter_singleton, List.filter_singleton, ha, hb]
  rfl

theorem filter_set_of_enters (hl : l.filter f = []) (hb : f b = true) : (l.set k b).filter f = [b] := by
  obtain ⟨l₁, l₂, hl', hs⟩ := filter_set h b f
  rw [hl, eq_comm, List.append_eq_nil_iff, List.append_eq_nil_iff] at hl'
  rw [hs, hl'.1.1, hl'.2, List.filter_singleton, hb]
  rfl

theorem filter_set_of_alone (hl : l.filter f = [a]) : (l.set k b).filter f = [b].filter f := by
  have ha : f a = true := (List.mem_filter.mp (hl ▸ List.mem_singleton_self a)).2
  obtain ⟨l₁, l₂, hl', hs⟩ := filter_set h b f
  rw [hl, List.filter_singleton, ha] at hl'
  have hlen := congrArg List.length hl'
  simp only [List.length_append, cond_true, List.length_cons, List.length_nil] at hlen
  rw [hs, List.eq_nil_of_length_eq_zero (l := l₁) (by omega), List.eq_nil_of_length_eq_zero (l := l₂) (by omega)]
  simp

/-- A step of a caller that neither takes nor frees a slot (R301, R303). -/
theorem SlotHolds.goesOn {w : Nat} {kind : BitVec w → Request} {x : Slot w} (hx : SlotHolds kind x (l.filter f))
    (hf : f b = f a) (hq : b.request = a.request) : SlotHolds kind x ((l.set k b).filter f) := by
  cases ha : f a with
  | false => rwa [filter_set_of_out f h ha (hf.trans ha)]
  | true =>
    have hmem : a ∈ l.filter f := List.mem_filter.mpr ⟨List.mem_of_getElem? h, ha⟩
    obtain ⟨hfree, hl⟩ := hx.eq_singleton hmem
    rw [filter_set_of_alone f h hl, List.filter_singleton, hf, ha, cond_true]
    cases x with
    | free => exact absurd rfl hfree
    | pending ref =>
      obtain ⟨c, hc, hr⟩ := hx
      obtain rfl : a = c := by rw [hl] at hc; exact (List.cons.inj hc).1
      exact ⟨b, rfl, hq.trans hr⟩
    | fulfilled r => exact ⟨b, rfl⟩

/-- A caller that ends frees its slot (R303, R304). -/
theorem SlotHolds.frees {w : Nat} {kind : BitVec w → Request} {x : Slot w} (hx : SlotHolds kind x (l.filter f))
    (ha : f a = true) (hb : f b = false) : SlotHolds kind .free ((l.set k b).filter f) := by
  have hmem : a ∈ l.filter f := List.mem_filter.mpr ⟨List.mem_of_getElem? h, ha⟩
  have hempty := filter_set_of_alone (b := b) f h (hx.eq_singleton hmem).2
  rwa [List.filter_singleton, hb] at hempty

/-- A caller that finds the slot free takes it (R302). -/
theorem SlotHolds.takes {w : Nat} {kind : BitVec w → Request} {ref : BitVec w}
    (hx : SlotHolds kind .free (l.filter f)) (hb : f b = true) (hq : b.request = kind ref) :
    SlotHolds kind (.pending ref) ((l.set k b).filter f) :=
  ⟨b, filter_set_of_enters f h hx hb, hq⟩

end

/-- Mutual exclusion of both kinds (R305). -/
def Correlator.Exclusion (c : Correlator) : Prop := c.superExclusion ∧ c.stackExclusion

theorem Correlator.exclusion_iff (c : Correlator) : c.Exclusion ↔
    SlotHolds .super c.engine.slotSuper (c.callers.filter fun a => a.isSuper && a.inFlight) ∧
    SlotHolds .stack c.engine.slotStack (c.callers.filter fun a => !a.isSuper && a.inFlight) :=
  and_congr c.superExclusion_iff c.stackExclusion_iff

theorem exclusion_callerMove {s t : State} {c : Nat} (h : s.correlator.Exclusion) (hm : CallerMove s c t) :
    t.correlator.Exclusion := by
  have h' := s.correlator.exclusion_iff.mp h
  obtain ⟨hsuper, hstack⟩ := h'
  rw [Correlator.exclusion_iff]
  cases hm with
  | waits ws => exact ⟨hsuper, hstack⟩
  | @goesOn a k ws hc hf =>
    have hkind : Caller.isSuper { a with step := k } = a.isSuper := rfl
    exact ⟨hsuper.goesOn _ hc (by simp only [hkind, hf]) rfl, hstack.goesOn _ hc (by simp only [hkind, hf]) rfl⟩
  | @takesSlot a hc hf hr hfree =>
    obtain ⟨q, ws, k⟩ := a
    cases q with
    | super ref =>
      have hslot : s.engine.slotSuper = .free := (Slot.isFree_iff _).mp hfree
      exact ⟨SlotHolds.takes _ hc (hslot ▸ hsuper) rfl rfl, hstack.goesOn _ hc rfl rfl⟩
    | stack ref =>
      have hslot : s.engine.slotStack = .free := (Slot.isFree_iff _).mp hfree
      exact ⟨hsuper.goesOn _ hc rfl rfl, SlotHolds.takes _ hc (hslot ▸ hstack) rfl rfl⟩
  | @freesSlot a r ws hc hf =>
    obtain ⟨q, ws, k⟩ := a
    cases q with
    | super ref => exact ⟨hsuper.frees _ hc hf rfl, hstack.goesOn _ hc rfl rfl⟩
    | stack ref => exact ⟨hsuper.goesOn _ hc rfl rfl, hstack.frees _ hc hf rfl⟩

theorem exclusion_answers {T U : Engine} {cs : List Caller} (h : Correlator.Exclusion ⟨T, cs⟩) (ha : T.Answers U) :
    Correlator.Exclusion ⟨U, cs⟩ := by
  rw [Correlator.exclusion_iff] at h ⊢
  exact ⟨h.1.answers ha.1, h.2.answers ha.2⟩

/-- A submission adds a caller that is not in flight (R301). -/
theorem exclusion_submit {s : State} (h : s.correlator.Exclusion) (q : Request) (ws : List Word) :
    (s.submit q ws).correlator.Exclusion := by
  rw [Correlator.exclusion_iff] at h ⊢
  simpa [State.correlator, List.filter_append, Caller.inFlight] using h

/-! ## One engine at a time -/

/-- What holds of every engine, with its callers: kept by a step where it holds of a new engine and where every
operation of the present one keeps it. -/
theorem correlators_of_step {I : Correlator → Prop} {s t : State} (hstep : step s = .next t)
    (hall : ∀ c ∈ s.correlators, I c) (hnew : I ⟨.constructed, []⟩)
    (hmove : ∀ i U, EngineMove s.params s.engine i U → I ⟨U, s.callers⟩)
    (hsubmit : ∀ (q : Request) (ws : List Word), I ⟨s.engine, s.callers ++ [⟨q, ws, .start⟩]⟩)
    (hcaller : ∀ es c u, CallerMove { s with schedule := es } c u → I u.correlator) : ∀ c ∈ t.correlators, I c := by
  have present (u : State) (ho : u.otherEngines = s.otherEngines) (hu : I u.correlator) : ∀ c ∈ u.correlators, I c := by
    intro c hc
    rcases (u.mem_correlators c).mp hc with rfl | hc
    · exact hu
    · exact hall c ((s.mem_correlators c).mpr (.inr (ho ▸ hc)))
  have hself := hall s.correlator ((s.mem_correlators _).mpr (.inl rfl))
  cases stepped_of_step hstep with
  | word r hn hm => exact present _ rfl hself
  | reader hn hs => exact present _ rfl (hmove .readerStep _ (.reader _))
  | @event e es _ hn hs htr =>
    cases htr with
    | result r => exact present _ rfl hself
    | parser r hm => exact present _ rfl hself
    | sessionReset rs hc hrs => exact present _ rfl hself
    | engine hm => exact present _ rfl (hmove _ _ hm)
    | engineConstruct => exact List.forall_mem_cons.mpr ⟨hnew, hall⟩
    | submit => exact present _ rfl (hsubmit _ _)
    | caller c ok =>
      have hm := callerMove_callerStep { s with schedule := es } c ok
      exact present _ hm.otherEngines (hcaller es c _ hm)
    | turnToEngine k =>
      exact fun c hc => hall c ((State.correlators_turnToEngine { s with schedule := es } k).mem_iff.mp hc)
    | turnToSession k => exact present _ (State.turnToSession_otherEngines ..) (by
        rw [State.correlator, State.turnToSession_engine, State.turnToSession_callers]; exact hself)

/-- Settles O60. -/
theorem stepKeepsMutualExclusion : Obligations.StepKeepsMutualExclusion := by
  intro s t h hstep
  have hself : s.correlator.Exclusion := h s.correlator List.mem_cons_self
  exact correlators_of_step (I := Correlator.Exclusion) hstep h Correlator.exclusion_constructed
    (fun _ _ hm => exclusion_answers hself hm.answers) (fun q ws => exclusion_submit hself q ws)
    fun es c u hm => exclusion_callerMove (s := { s with schedule := es }) hself hm

/-! ## The correlator's invariant (R45 to R50, R79, R320) -/

theorem Slot.Answers.isPending {w : Nat} {x y : Slot w} (h : x.Answers y) (hx : x.isPending = false) :
    y.isPending = false := by
  rcases h with rfl | ⟨ref, r, -, rfl⟩
  · exact hx
  · rfl

theorem Slot.bounded_disconnect {w n : Nat} {x : Slot w} (h : x.bounded n) : x.disconnect.bounded n := by
  cases x with
  | free => trivial
  | pending ref => trivial
  | fulfilled r => exact h

theorem Slot.isPending_disconnect {w : Nat} (x : Slot w) : x.disconnect.isPending = false := by cases x <;> rfl

section
variable {p : Params} {T : Engine}

theorem Engine.Inv.pop (h : T.Inv p) (n : Nat) : (T.pop n).Inv p :=
  { h with
    fifo := (List.length_drop (i := n) ▸ Nat.sub_le _ _ : (T.fifo.drop n).length ≤ T.fifo.length).trans h.fifo
    stopped := fun hr => by
      obtain ⟨hf, hrest⟩ := h.stopped hr
      exact ⟨by simp [Engine.pop, hf], hrest⟩ }

/-- Setting the stack slot to what answers it keeps the invariant. -/
theorem Engine.Inv.chainEnded (h : T.Inv p) {x : Slot 32} (hx : T.slotStack.Answers x) (hb : x.bounded p.respMaxWords)
    (c : EngineCounters) : Engine.Inv p { T.chainEnded with slotStack := x, counters := c } :=
  { h with
    chain := Nat.zero_le _
    notCollecting := fun _ => ⟨rfl, rfl⟩
    notBroken := rfl
    stopped := fun hr => by
      obtain ⟨hf, -, hsuper, hstack⟩ := h.stopped hr
      exact ⟨hf, rfl, hsuper, hx.isPending hstack⟩
    stackBounded := hb }

/-- Judging a reply whose words fit keeps the invariant (R314). -/
theorem Engine.Inv.finishChain (h : T.Inv p) {ws : List Word} (hw : ws.length ≤ p.respMaxWords) (k o b : Bool) :
    (T.withChain k ws o b).finishChain.Inv p := by
  have hans := (T.withChain k ws o b).answers_finishChain.2
  rw [Engine.finishChain_frame]
  refine h.chainEnded hans ?_ _
  cases hs : T.slotStack with
  | pending ref =>
    rw [Engine.finishChain_of_pending _ _ _ _ hs]
    split
    · cases b with
      | true => trivial
      | false =>
        cases o with
        | true => trivial
        | false => exact hw
    · trivial
  | free => rw [Engine.finishChain_of_not_pending _ _ _ _ (by rw [hs]; rfl)]; exact h.stackBounded
  | fulfilled r => rw [Engine.finishChain_of_not_pending _ _ _ _ (by rw [hs]; rfl)]; exact h.stackBounded

/-- A chain being collected, its words within the limit, keeps the invariant (R312). -/
theorem Engine.Inv.collects (h : T.Inv p) (hr : T.running = true) {ws : List Word} (hw : ws.length ≤ p.respMaxWords)
    (o : Bool) : (T.withChain true ws o false).Inv p :=
  { h with
    chain := hw
    notCollecting := nofun
    notBroken := rfl
    stopped := fun hs => absurd (hr.symm.trans hs) (by decide) }

theorem Engine.Inv.superReply (h : T.Inv p) (pay : List Word) : (T.superReply p pay).Inv p := by
  have answered {r : TxResult} (c : EngineCounters) (hr : (Slot.fulfilled r : Slot 16).bounded p.respMaxWords) :
      Engine.Inv p { T with slotSuper := .fulfilled r, counters := c } :=
    { h with
      superBounded := hr
      stopped := fun hs => by
        obtain ⟨hf, hc, -, hstack⟩ := h.stopped hs
        exact ⟨hf, hc, rfl, hstack⟩ }
  unfold Engine.superReply
  split
  · exact { h with }
  · exact { h with }
  · split
    · split
      · exact answered _ trivial
      · rename_i hfit
        exact answered _ (Nat.not_lt.mp hfit)
    · exact answered _ trivial

theorem histKey_lt {s : BitVec 4} (h : s.toNat < 8) (line : BitVec 16) (f : BitVec 4) :
    histKey s line f < histKey 8 0 0 := by
  have hl := line.isLt
  have hf := f.isLt
  rw [show histKey 8 0 0 = 8388608 by decide]
  simp only [histKey, toNat_append]
  omega

theorem Engine.Inv.stackErrorFrame (h : T.Inv p) (w : Word) (pay : List Word) : (T.stackErrorFrame w pay).Inv p := by
  unfold Engine.stackErrorFrame
  split
  · exact { h with }
  · split
    · exact { h with }
    · rename_i hn
      exact { h with
        hist := Sparse.wf_set _ _ _ _ h.hist
        histStacks := fun e he => (Sparse.mem_set _ _ _ _ e he).elim
          (fun heq => heq ▸ histKey_lt (Nat.not_le.mp hn) _ _) (h.histStacks e) }

theorem Engine.Inv.dispatchFrame (h : T.Inv p) (hr : T.running = true) (w : Word) (pay : List Word) :
    (T.dispatchFrame p w pay).Inv p := by
  have hchain : Engine.Inv p { T with chainStack := stackNumOf w } := { h with }
  have htake : (pay.take p.respMaxWords).length ≤ p.respMaxWords := List.length_take_le ..
  unfold Engine.dispatchFrame
  split
  · exact h.superReply pay
  · split
    · rw [Engine.stackReply, Engine.openChain_appendChain]
      split
      · exact hchain.collects hr htake _
      · exact hchain.finishChain htake _ _ _
    · exact h.stackErrorFrame w pay

/-- A step of the reader keeps the invariant (R308, R313). -/
theorem Engine.Inv.readerStep (h : T.Inv p) : (T.readerStep p).Inv p := by
  unfold Engine.readerStep
  split
  · exact h
  · rename_i w rest hf
    unfold Engine.readerWord
    split
    · rename_i hrun
      have hr : T.running = true := (Bool.and_eq_true_iff.mp hrun).1
      split
      · rename_i hcol
        unfold Engine.chainWord
        split
        · split
          · have hpop := h.pop (1 + payloadWords w)
            have happend := Engine.appendChain_eq p (payloadOf T.fifo w) (T.pop (1 + payloadWords w)) h.chain
            have heq : (T.pop (1 + payloadWords w)).appendChain p (payloadOf T.fifo w) =
                (T.pop (1 + payloadWords w)).withChain true
                  ((T.chainWords ++ payloadOf T.fifo w).take p.respMaxWords)
                  ((T.pop (1 + payloadWords w)).appendChain p (payloadOf T.fifo w)).chainOverflow false := by
              rw [happend, Engine.withChain, ← hcol, ← h.notBroken]; rfl
            dsimp only
            rw [heq]
            split
            · exact hpop.collects hr (List.length_take_le ..) _
            · exact hpop.finishChain (List.length_take_le ..) _ _ _
          · exact h
        · exact Engine.Inv.finishChain (T := T.countChainBroken) { h with } h.chain T.collecting T.chainOverflow true
      · unfold Engine.headWord
        split
        · exact { h.pop 1 with }
        · split
          · exact (h.pop _).dispatchFrame hr w _
          · exact h
    · exact h

theorem Engine.Inv.shutdown (h : T.Inv p) : T.shutdown.Inv p :=
  { h with
    fifo := Nat.zero_le _
    chain := Nat.zero_le _
    notCollecting := fun _ => ⟨rfl, rfl⟩
    notBroken := rfl
    stopped := fun _ => ⟨rfl, rfl, Slot.isPending_disconnect _, Slot.isPending_disconnect _⟩
    superBounded := Slot.bounded_disconnect h.superBounded
    stackBounded := Slot.bounded_disconnect h.stackBounded }

theorem Engine.Inv.stopCheck (h : T.Inv p) : T.stopCheck.Inv p := by
  unfold Engine.stopCheck
  split
  · exact h.shutdown
  · exact h

theorem EngineMove.inv {i : Instr} {U : Engine} (hm : EngineMove p T i U) (h : T.Inv p) : U.Inv p := by
  cases hm with
  | reader => exact h.readerStep
  | rxWords ws =>
    by_cases hc : T.canDeliver p ws = true
    · obtain ⟨hr, hf⟩ := (T.canDeliver_iff p ws).mp hc
      rw [Engine.rxWords_of_fits p hr hf]
      exact Engine.Inv.stopCheck (T := T.push ws) { h with
        fifo := (List.length_append ..).trans_le hf
        stopped := fun hs => absurd (hr.symm.trans hs) (by decide) }
    · rw [Engine.rxWords, if_neg hc]; exact h
  | rxTimeout =>
    unfold Engine.rxTimeout
    split
    · exact Engine.Inv.stopCheck (T := T.countTimeout) { h with }
    · exact h
  | rxDisconnect =>
    unfold Engine.rxDisconnect
    split
    · exact h.shutdown
    · exact h
  | requestStop => exact { h with }
  | clearStackErrors => exact { h with hist := Sparse.wf_nil 0, histStacks := fun _ he => absurd he List.not_mem_nil }

/-- Taking a free slot of a running engine keeps the invariant (R302). -/
theorem Engine.Inv.install (h : T.Inv p) (hr : T.running = true) (q : Request) : (T.install q).Inv p := by
  cases q with
  | super ref => exact { h with
      stopped := fun hs => absurd (hr.symm.trans hs) (by decide)
      superBounded := trivial }
  | stack ref => exact { h with
      stopped := fun hs => absurd (hr.symm.trans hs) (by decide)
      stackBounded := trivial }

/-- Freeing a slot keeps the invariant (R303, R304). -/
theorem Engine.Inv.release (h : T.Inv p) (q : Request) : (T.release q).Inv p := by
  cases q with
  | super ref => exact { h with
      stopped := fun hs => by
        obtain ⟨hf, hc, -, hstack⟩ := h.stopped hs
        exact ⟨hf, hc, rfl, hstack⟩
      superBounded := trivial }
  | stack ref => exact { h with
      stopped := fun hs => by
        obtain ⟨hf, hc, hsuper, -⟩ := h.stopped hs
        exact ⟨hf, hc, hsuper, rfl⟩
      stackBounded := trivial }

end

theorem CallerMove.inv {s t : State} {c : Nat} (hm : CallerMove s c t) (h : s.engine.Inv s.params) :
    t.engine.Inv s.params := by
  cases hm with
  | waits ws => exact h
  | goesOn k ws => exact h
  | takesSlot _ _ hr => exact h.install hr _
  | freesSlot r ws => exact h.release _

/-! ## No step writes the parameters, and writes are only appended (R7, R303) -/

theorem Transition.frame {s t : State} {e : Event} (h : Transition s e t) :
    t.params = s.params ∧ ∃ ws, t.written = s.written ++ ws := by
  cases h with
  | caller c ok =>
    obtain ⟨ws, ht⟩ := (callerMove_callerStep s c ok).frame
    rw [ht]
    exact ⟨rfl, ws, rfl⟩
  | turnToEngine k => exact ⟨State.turnToEngine_params .., [], by simp⟩
  | turnToSession k => exact ⟨State.turnToSession_params .., [], by simp⟩
  | _ => exact ⟨rfl, [], by simp⟩

theorem frame_of_step {s t : State} (h : step s = .next t) :
    t.params = s.params ∧ ∃ ws, t.written = s.written ++ ws := by
  cases stepped_of_step h with
  | word r hn hm => exact ⟨rfl, [], by simp⟩
  | reader hn hs => exact ⟨rfl, [], by simp⟩
  | event hn hs htr => exact htr.frame

/-- Settles O59. -/
theorem stepKeepsTheEngineInvariant : Obligations.StepKeepsTheEngineInvariant := by
  intro s t _ h hstep
  have hself : s.engine.Inv s.params := h s.correlator List.mem_cons_self
  unfold State.engineInv
  rw [(frame_of_step hstep).1]
  exact correlators_of_step (I := fun c => c.engine.Inv s.params) hstep h (Engine.inv_constructed _)
    (fun _ _ hm => hm.inv hself) (fun _ _ => hself)
    fun es c u hm => CallerMove.inv (s := { s with schedule := es }) hm hself

/-! ## Stopped engines (R48, R321, R330, R331) -/

theorem Engine.dispatchFrame_running (p : Params) (w : Word) (pay : List Word) (T : Engine) :
    (T.dispatchFrame p w pay).running = T.running := by
  unfold Engine.dispatchFrame
  split
  · unfold Engine.superReply
    split
    · rfl
    · rfl
    · split
      · split <;> rfl
      · rfl
  · split
    · rw [Engine.stackReply, Engine.openChain_appendChain]
      split
      · rfl
      · rw [Engine.finishChain_frame]; rfl
    · unfold Engine.stackErrorFrame
      split
      · rfl
      · split <;> rfl

theorem Engine.appendChain_running (p : Params) (pay : List Word) (T : Engine) :
    (T.appendChain p pay).running = T.running := by
  induction pay generalizing T with
  | nil => rfl
  | cons x pay ih => rw [Engine.appendChain]; split <;> rw [ih]

/-- No word stops the reader (R330). -/
theorem Engine.readerStep_running (p : Params) (T : Engine) : (T.readerStep p).running = T.running := by
  unfold Engine.readerStep
  split
  · rfl
  · unfold Engine.readerWord
    split
    · split
      · unfold Engine.chainWord
        split
        · split
          · dsimp only
            split
            · exact Engine.appendChain_running ..
            · rw [Engine.finishChain_frame]; exact Engine.appendChain_running ..
          · rfl
        · rw [Engine.finishChain_frame]; rfl
      · unfold Engine.headWord
        split
        · rfl
        · split
          · exact Engine.dispatchFrame_running ..
          · rfl
    · rfl

/-- The transport events that can stop an engine (R307, R316, R317). -/
def StopsEngine (T : Engine) (i : Instr) : Prop :=
  i = .rxDisconnect ∨ T.stopReq = true ∧ (i = .rxTimeout ∨ ∃ ws, i = .rxWords ws)

theorem Engine.stopCheck_running (T : Engine) : T.stopCheck.running = T.running ∨
    T.stopReq = true ∧ T.stopCheck.running = false := by
  unfold Engine.stopCheck
  split
  · rename_i h; exact .inr ⟨h, rfl⟩
  · exact .inl rfl

/-- Nothing starts an engine again, and only a transport event stops it (R48, R330). -/
theorem EngineMove.running {p : Params} {T U : Engine} {i : Instr} (h : EngineMove p T i U) :
    U.running = T.running ∨ U.running = false ∧ StopsEngine T i := by
  cases h with
  | reader => exact .inl (T.readerStep_running p)
  | rxWords ws =>
    unfold Engine.rxWords
    split
    · exact (Engine.stopCheck_running (T.push ws)).imp_right fun ⟨hq, hr⟩ => ⟨hr, .inr ⟨hq, .inr ⟨ws, rfl⟩⟩⟩
    · exact .inl rfl
  | rxTimeout =>
    unfold Engine.rxTimeout
    split
    · exact (Engine.stopCheck_running T.countTimeout).imp_right fun ⟨hq, hr⟩ => ⟨hr, .inr ⟨hq, .inl rfl⟩⟩
    · exact .inl rfl
  | rxDisconnect =>
    unfold Engine.rxDisconnect
    split
    · exact .inr ⟨rfl, .inl rfl⟩
    · exact .inl rfl
  | requestStop => exact .inl rfl
  | clearStackErrors => exact .inl rfl

theorem CallerMove.running {s t : State} {c : Nat} (hm : CallerMove s c t) : t.engine.running = s.engine.running := by
  cases hm with
  | waits ws => rfl
  | goesOn k ws => rfl
  | @takesSlot a => cases hq : a.request <;> simp only [State.callerTo, hq, Engine.install]
  | @freesSlot a => cases hq : a.request <;> simp only [State.callerTo, hq, Engine.release]

/-- While the host stays at an engine, only a transport event changes whether it runs. -/
theorem running_of_step {s t : State} (hstep : step s = .next t) (hstay : s.StaysAtEngine) :
    t.engine.running = s.engine.running ∨
      t.engine.running = false ∧ ∃ i es, s.schedule = .op i :: es ∧ StopsEngine s.engine i := by
  cases stepped_of_step hstep with
  | word r hn hm => exact .inl rfl
  | reader hn hs => exact .inl (s.engine.readerStep_running s.params)
  | @event e es _ hn hs htr =>
    have hfetch := State.fetch_event hn hs
    cases htr with
    | engine hm => exact hm.running.imp_right fun ⟨hr, hi⟩ => ⟨hr, _, es, hs, hi⟩
    | engineConstruct => exact absurd hfetch (hstay.1 es)
    | turnToEngine k => exact absurd hfetch (hstay.2 k es)
    | caller c ok => exact .inl (callerMove_callerStep { s with schedule := es } c ok).running
    | turnToSession k => rw [State.turnToSession_engine]; exact .inl rfl
    | _ => exact .inl rfl

/-- In a stopped engine a slot that is taken holds a result (R320). -/
theorem exists_result_of_stopped {s : State} {c : Nat} {a : Caller} (hr : s.engine.running = false)
    (hinv : s.engine.Inv s.params) (hex : s.correlator.Exclusion) (hc : s.callers[c]? = some a)
    (hf : a.inFlight = true) :
    s.engine.slotPending a.request = false ∧ ∃ r, s.engine.slotResult a.request = some r := by
  have fulfilled {w : Nat} {x : Slot w} (hp : x.isPending = false) (hx : x ≠ .free) : ∃ r, x.resultOf = some r := by
    cases x with
    | free => exact absurd rfl hx
    | pending ref => cases hp
    | fulfilled r => exact ⟨r, rfl⟩
  obtain ⟨-, -, hsuper, hstack⟩ := hinv.stopped hr
  obtain ⟨exSuper, exStack⟩ := s.correlator.exclusion_iff.mp hex
  obtain ⟨q, ws, k⟩ := a
  cases q with
  | super ref =>
    exact ⟨hsuper, fulfilled hsuper (exSuper.eq_singleton (List.mem_filter.mpr ⟨List.mem_of_getElem? hc, hf⟩)).1⟩
  | stack ref =>
    exact ⟨hstack, fulfilled hstack (exStack.eq_singleton (List.mem_filter.mpr ⟨List.mem_of_getElem? hc, hf⟩)).1⟩

theorem callerTo_getElem? {s : State} {c : Nat} {a : Caller} (h : s.callers[c]? = some a) (k : CallerStep)
    (T : Engine) : (s.callerTo c a k T).callers[c]? = some { a with step := k } := by
  obtain ⟨hlt, -⟩ := List.getElem?_eq_some_iff.mp h
  exact List.getElem?_set_self hlt

/-- A caller in flight in a stopped engine takes the result of its slot (R321). -/
theorem callerTake_of_stopped {s : State} {c : Nat} {a : Caller} (hr : s.engine.running = false)
    (hinv : s.engine.Inv s.params) (hex : s.correlator.Exclusion) (hc : s.callers[c]? = some a)
    (hf : a.inFlight = true) :
    ∃ b, (s.callerTake c a.request).callers[c]? = some b ∧ b.isDone = true := by
  obtain ⟨-, r, hres⟩ := exists_result_of_stopped hr hinv hex hc hf
  rw [State.callerTake_of_result hc hres]
  exact ⟨_, callerTo_getElem? hc _ _, rfl⟩

/-- A step of a caller of a stopped engine ends it, or is the end of its write (R321). -/
theorem callerStep_of_stopped {s : State} {c : Nat} {a : Caller} (ok : Bool) (hr : s.engine.running = false)
    (hinv : s.engine.Inv s.params) (hex : s.correlator.Exclusion) (hc : s.callers[c]? = some a) :
    ∃ b, (s.callerStep c ok).callers[c]? = some b ∧
      (b.isDone = true ∨ b.step = .waitDone ∧ a.step = .writing) := by
  rw [State.callerStep_some hc]
  obtain ⟨q, ws, k⟩ := a
  cases k with
  | start => dsimp only; rw [State.callerStart_of_stopped hc hr]; exact ⟨_, callerTo_getElem? hc _ _, .inl rfl⟩
  | waitSlot => dsimp only; rw [State.callerWaitSlot_of_stopped hc hr]; exact ⟨_, callerTo_getElem? hc _ _, .inl rfl⟩
  | writing =>
    dsimp only
    cases ok with
    | true =>
      rw [State.callerWriting_of_ok hc]
      exact ⟨_, callerTo_getElem? (s := s.recordWrite ws true) hc _ _, .inr ⟨rfl, rfl⟩⟩
    | false =>
      obtain ⟨hp, -⟩ := exists_result_of_stopped hr hinv hex hc rfl
      rw [State.callerWriting_of_not_pending hp]
      obtain ⟨b, hb, hd⟩ := callerTake_of_stopped (s := s.recordWrite ws false) hr hinv hex hc rfl
      exact ⟨b, hb, .inl hd⟩
  | waitDone =>
    obtain ⟨b, hb, hd⟩ := callerTake_of_stopped hr hinv hex hc rfl
    exact ⟨b, hb, .inl hd⟩
  | done r => exact ⟨_, hc, .inl rfl⟩

/-- A caller that is done stays done (R300). -/
theorem callerStep_of_done {s : State} {c : Nat} {a : Caller} (ok : Bool) (hc : s.callers[c]? = some a)
    (hd : a.isDone = true) : (s.callerStep c ok).callers[c]? = some a := by
  rw [State.callerStep_some hc]
  obtain ⟨q, ws, k⟩ := a
  cases k with
  | done r => exact hc
  | _ => cases hd

/-- Settles O57. -/
theorem stoppedEnginesStayStoppedAndTheirCallersFinish :
    Obligations.StoppedEnginesStayStoppedAndTheirCallersFinish := by
  refine ⟨fun s t hstep hstay => ⟨fun hr => ?stays, fun hr ht => ?stops⟩, fun s c ok ok' hr hinv hex hlt => ?callers⟩
  case stays =>
    rcases running_of_step hstep hstay with h | ⟨h, -⟩
    · exact h.trans hr
    · exact h
  case stops =>
    rcases running_of_step hstep hstay with h | ⟨-, i, es, hs, hi⟩
    · rw [h, hr] at ht; cases ht
    · refine ⟨es, ?_⟩
      rcases hi with rfl | ⟨hq, rfl | ⟨ws, rfl⟩⟩
      · exact .inl hs
      · exact .inr ⟨hq, .inl hs⟩
      · exact .inr ⟨hq, .inr ⟨ws, hs⟩⟩
  case callers =>
    have hself : s.engine.Inv s.params := hinv s.correlator List.mem_cons_self
    have hexself : s.correlator.Exclusion := hex s.correlator List.mem_cons_self
    obtain ⟨a, hc⟩ : ∃ a, s.callers[c]? = some a := ⟨_, List.getElem?_eq_getElem hlt⟩
    have hm := callerMove_callerStep s c ok
    obtain ⟨b, hb, hd | ⟨hw, -⟩⟩ := callerStep_of_stopped ok hr hself hexself hc
    · exact ⟨b, callerStep_of_done ok' hb hd, hd⟩
    · have hparams : (s.callerStep c ok).params = s.params := by obtain ⟨ws, ht⟩ := hm.frame; rw [ht]
      obtain ⟨d, hd, hdone | ⟨-, hbad⟩⟩ := callerStep_of_stopped ok' (hm.running.trans hr)
        (hparams ▸ hm.inv hself) (exclusion_callerMove hexself hm) hb
      · exact ⟨d, hd, hdone⟩
      · rw [hw] at hbad; cases hbad

end Sys2Proof.Machine

/-! # Settling (R246, R247) and completing an event (R257 to R259) -/

namespace Sys2Proof.Machine

/-! ## Spans and the current module -/

@[simp] theorem Parser.span_setSpan_self (P : Parser) (m : Nat) (v : Span) : (P.setSpan m v).span m = v :=
  Sparse.get_set_self ..

theorem Parser.span_setSpan_of_ne (P : Parser) {m k : Nat} (v : Span) (h : k ≠ m) :
    (P.setSpan m v).span k = P.span k :=
  Sparse.get_set_of_ne _ _ _ _ _ h

theorem Parser.span_setSpan (P : Parser) (m k : Nat) (v : Span) :
    (P.setSpan m v).span k = if k = m then v else P.span k := by
  split
  · rename_i h; rw [h, P.span_setSpan_self]
  · rename_i h; exact P.span_setSpan_of_ne v h

/-- The current module, where the index names one (R24). -/
theorem Parser.currentModule_of_lt {P : Parser} (h0 : 0 ≤ P.moduleIndex) (h : P.moduleIndex < P.modules.length) :
    ∃ mod, P.currentModule = some mod := by
  rw [Parser.currentModule, if_neg (by omega)]
  exact ⟨_, List.getElem?_eq_getElem (by omega)⟩

theorem Parser.currentModule_eq_some {P : Parser} {mod : ModuleShape} (h : P.currentModule = some mod) :
    0 ≤ P.moduleIndex ∧ P.moduleIndex < P.modules.length ∧ P.modules[P.moduleIndex.toNat]? = some mod := by
  unfold Parser.currentModule at h
  split at h
  · cases h
  · obtain ⟨hlt, -⟩ := List.getElem?_eq_some_iff.mp h
    exact ⟨by omega, by omega, h⟩

/-! ## The passes of `settle()` (R247) -/

/-- The current module is complete in its phase (R247). -/
def Parser.PhaseDone (P : Parser) (mod : ModuleShape) : Prop :=
  match P.phase with
  | .prefixPhase => (P.span P.moduleIndex.toNat).prefixSpan.size = mod.prefixLen.toNat
  | .dynamicPhase => blockFinished P.blockF = true
  | .suffixPhase => (P.span P.moduleIndex.toNat).suffixSpan.size = mod.suffixLen.toNat

section
variable {P : Parser} {mod : ModuleShape}

theorem Parser.phaseDone_prefix (h : P.phase = .prefixPhase) :
    P.PhaseDone mod ↔ (P.span P.moduleIndex.toNat).prefixSpan.size = mod.prefixLen.toNat := by
  rw [Parser.PhaseDone, h]

theorem Parser.phaseDone_dynamic (h : P.phase = .dynamicPhase) :
    P.PhaseDone mod ↔ blockFinished P.blockF = true := by
  rw [Parser.PhaseDone, h]

theorem Parser.phaseDone_suffix (h : P.phase = .suffixPhase) :
    P.PhaseDone mod ↔ (P.span P.moduleIndex.toNat).suffixSpan.size = mod.suffixLen.toNat := by
  rw [Parser.PhaseDone, h]

end

/-- The passes of `settle()` from `P` to where it stops (R247). -/
inductive Settles : Parser → Parser → Prop where
  | stop {P : Parser} {mod : ModuleShape} : P.currentModule = some mod → ¬ P.PhaseDone mod → Settles P P
  | fromPrefix {P Q : Parser} {mod : ModuleShape} : P.currentModule = some mod → P.phase = .prefixPhase →
      P.PhaseDone mod → Settles (P.leavePrefix mod.hasDynamic) Q → Settles P Q
  | fromDynamic {P Q : Parser} {mod : ModuleShape} : P.currentModule = some mod → P.phase = .dynamicPhase →
      P.PhaseDone mod → Settles P.leaveDynamic Q → Settles P Q
  | nextModule {P Q : Parser} {mod : ModuleShape} : P.currentModule = some mod → P.phase = .suffixPhase →
      P.PhaseDone mod → P.moduleIndex + 1 < P.modules.length →
      Settles (Parser.enterModule (P.moduleIndex + 1).toNat { P with moduleIndex := P.moduleIndex + 1 }) Q →
      Settles P Q
  | complete {P : Parser} {mod : ModuleShape} : P.currentModule = some mod → P.phase = .suffixPhase →
      P.PhaseDone mod → P.moduleIndex + 1 = P.modules.length →
      Settles P (Parser.completeEvent { P with moduleIndex := P.moduleIndex + 1 })

theorem Parser.leavePrefix_moduleIndex (P : Parser) (b : Bool) : (P.leavePrefix b).moduleIndex = P.moduleIndex := by
  cases b <;> rfl

theorem Parser.leavePrefix_modules (P : Parser) (b : Bool) : (P.leavePrefix b).modules = P.modules := by
  cases b <;> rfl

theorem Parser.leavePrefix_phase (P : Parser) (b : Bool) :
    (P.leavePrefix b).phase = if b then .dynamicPhase else .suffixPhase := by
  cases b <;> rfl

/-- How many passes a phase can still take in its module. -/
def passesLeft : Phase → Nat
  | .prefixPhase => 3
  | .dynamicPhase => 2
  | .suffixPhase => 1

/-- With a pass for every phase that is left, the loop comes to its own end (R247; log 15). -/
theorem settles_settleLoop (fuel : Nat) (P : Parser) (h0 : 0 ≤ P.moduleIndex) (h : P.moduleIndex < P.modules.length)
    (hf : 3 * (P.modules.length - 1 - P.moduleIndex.toNat) + passesLeft P.phase ≤ fuel) :
    Settles P (P.settleLoop fuel) := by
  induction fuel generalizing P with
  | zero => cases hp : P.phase <;> rw [hp] at hf <;> simp only [passesLeft] at hf <;> omega
  | succ fuel ih =>
    obtain ⟨mod, hmod⟩ := Parser.currentModule_of_lt h0 h
    unfold Parser.settleLoop
    rw [hmod]
    dsimp only
    split
    · rename_i hp
      split
      · rename_i hd
        refine .fromPrefix hmod hp ((Parser.phaseDone_prefix hp).mpr hd) (ih _ ?_ ?_ ?_)
        · rwa [Parser.leavePrefix_moduleIndex]
        · rwa [Parser.leavePrefix_moduleIndex, Parser.leavePrefix_modules]
        · rw [Parser.leavePrefix_moduleIndex, Parser.leavePrefix_modules, Parser.leavePrefix_phase]
          rw [hp] at hf
          cases mod.hasDynamic <;> simp only [passesLeft, Bool.false_eq_true, if_true, if_false] at hf ⊢ <;> omega
      · rename_i hd
        exact .stop hmod (fun hc => hd ((Parser.phaseDone_prefix hp).mp hc))
    · rename_i hp
      split
      · rename_i hd
        refine .fromDynamic hmod hp ((Parser.phaseDone_dynamic hp).mpr hd) (ih P.leaveDynamic h0 h ?_)
        rw [hp] at hf
        simp only [passesLeft] at hf
        exact Nat.le_of_succ_le_succ hf
      · rename_i hd
        exact .stop hmod (fun hc => hd ((Parser.phaseDone_dynamic hp).mp hc))
    · rename_i hp
      split
      · rename_i hd
        split
        · rename_i hlast
          exact .complete hmod hp ((Parser.phaseDone_suffix hp).mpr hd) hlast
        · rename_i hmore
          have hlt : P.moduleIndex + 1 < P.modules.length := by
            have hne : P.moduleIndex + 1 ≠ P.modules.length := hmore
            omega
          refine .nextModule hmod hp ((Parser.phaseDone_suffix hp).mpr hd) hlt (ih _ (by simp; omega) hlt ?_)
          rw [hp] at hf
          simp only [Parser.enterModule_moduleIndex, Parser.enterModule_phase, passesLeft] at hf ⊢
          change 3 * (P.modules.length - 1 - (P.moduleIndex + 1).toNat) + 3 ≤ fuel
          omega
      · rename_i hd
        exact .stop hmod (fun hc => hd ((Parser.phaseDone_suffix hp).mp hc))

theorem settles_settle {P : Parser} (h0 : 0 ≤ P.moduleIndex) (h : P.moduleIndex < P.modules.length) :
    Settles P P.settle := by
  refine settles_settleLoop _ P h0 h ?_
  rw [Parser.settleFuel]
  cases P.phase <;> simp only [passesLeft] <;> omega

/-- Without a current module there is nothing to settle (log 16). -/
theorem Parser.settle_of_none {P : Parser} (h : P.currentModule = none) : P.settle = P := by
  rw [Parser.settle, Parser.settleFuel, Parser.settleLoop, h]

/-- Where the current module is not complete in its phase, nothing is left to settle. -/
theorem Settles.eq_of_not_done {P Q : Parser} {mod : ModuleShape} (h : Settles P Q) (hmod : P.currentModule = some mod)
    (hd : ¬ P.PhaseDone mod) : Q = P := by
  have same {mod' : ModuleShape} (h : P.currentModule = some mod') : mod' = mod := by
    rw [hmod] at h; exact (Option.some.inj h).symm
  cases h with
  | stop => rfl
  | fromPrefix hm _ hdone => exact absurd (same hm ▸ hdone) hd
  | fromDynamic hm _ hdone => exact absurd (same hm ▸ hdone) hd
  | nextModule hm _ hdone => exact absurd (same hm ▸ hdone) hd
  | complete hm _ hdone => exact absurd (same hm ▸ hdone) hd

theorem Parser.settle_of_not_done {P : Parser} {mod : ModuleShape} (hmod : P.currentModule = some mod)
    (hd : ¬ P.PhaseDone mod) : P.settle = P := by
  obtain ⟨h0, h, -⟩ := Parser.currentModule_eq_some hmod
  exact (settles_settle h0 h).eq_of_not_done hmod hd

section
variable {P Q : Parser} {mod : ModuleShape} (h : Settles P Q) (hmod : P.currentModule = some mod)
  (hd : P.PhaseDone mod)
include h hmod hd

theorem Settles.of_prefixDone (hp : P.phase = .prefixPhase) : Settles (P.leavePrefix mod.hasDynamic) Q := by
  have same {mod' : ModuleShape} (h : P.currentModule = some mod') : mod' = mod := by
    rw [hmod] at h; exact (Option.some.inj h).symm
  cases h with
  | stop hm hn => exact absurd (same hm ▸ hd) hn
  | fromPrefix hm _ _ hs => exact same hm ▸ hs
  | fromDynamic _ hp' => rw [hp] at hp'; cases hp'
  | nextModule _ hp' => rw [hp] at hp'; cases hp'
  | complete _ hp' => rw [hp] at hp'; cases hp'

theorem Settles.of_dynamicDone (hp : P.phase = .dynamicPhase) : Settles P.leaveDynamic Q := by
  have same {mod' : ModuleShape} (h : P.currentModule = some mod') : mod' = mod := by
    rw [hmod] at h; exact (Option.some.inj h).symm
  cases h with
  | stop hm hn => exact absurd (same hm ▸ hd) hn
  | fromPrefix _ hp' => rw [hp] at hp'; cases hp'
  | fromDynamic _ _ _ hs => exact hs
  | nextModule _ hp' => rw [hp] at hp'; cases hp'
  | complete _ hp' => rw [hp] at hp'; cases hp'

theorem Settles.of_suffixDone (hp : P.phase = .suffixPhase) :
    P.moduleIndex + 1 < P.modules.length ∧
      Settles (Parser.enterModule (P.moduleIndex + 1).toNat { P with moduleIndex := P.moduleIndex + 1 }) Q ∨
    P.moduleIndex + 1 = P.modules.length ∧
      Q = Parser.completeEvent { P with moduleIndex := P.moduleIndex + 1 } := by
  have same {mod' : ModuleShape} (h : P.currentModule = some mod') : mod' = mod := by
    rw [hmod] at h; exact (Option.some.inj h).symm
  cases h with
  | stop hm hn => exact absurd (same hm ▸ hd) hn
  | fromPrefix _ hp' => rw [hp] at hp'; cases hp'
  | fromDynamic _ hp' => rw [hp] at hp'; cases hp'
  | nextModule _ _ _ hlt hs => exact .inl ⟨hlt, hs⟩
  | complete _ _ _ hlast => exact .inr ⟨hlast, rfl⟩

end

/-! ## The counters of an emitted event (R259) -/

theorem statKey_injective {e f m k : Nat} (he : e < 16) (hf : f < 16) (h : statKey e m = statKey f k) :
    e = f ∧ m = k := by
  simp only [statKey] at h
  omega

theorem ParserCounters.stats_recordModule {e f : Nat} (he : e < 16) (hf : f < 16) (m k size : Nat) (c : ParserCounters) :
    (c.recordModule e m size).stats f k =
      if f = e ∧ k = m then (c.stats e m).record (BitVec.ofNat 64 size) else c.stats f k := by
  split
  · rename_i h
    obtain ⟨rfl, rfl⟩ := h
    exact Sparse.get_set_self ..
  · rename_i h
    exact Sparse.get_set_of_ne _ _ _ _ _ fun hk => h (statKey_injective hf he hk)

/-- The statistics after an event: one more event for each of its modules, and no other changed (R259). -/
theorem ParserCounters.stats_recordModules {e f : Nat} (he : e < 16) (hf : f < 16) (ds : List ModuleData)
    (c : ParserCounters) (m k : Nat) : (c.recordModules e m ds).stats f k =
      match (if f = e ∧ m ≤ k then ds[k - m]? else none) with
      | some d => (c.stats e k).record (BitVec.ofNat 64 d.size)
      | none => c.stats f k := by
  induction ds generalizing c m with
  | nil => simp [ParserCounters.recordModules]
  | cons d ds ih =>
    rw [ParserCounters.recordModules, ih]
    by_cases hfe : f = e
    · subst hfe
      rcases Nat.lt_trichotomy k m with hlt | rfl | hgt
      · rw [if_neg (by omega), if_neg (by omega)]
        simp only [ParserCounters.stats_recordModule hf hf, true_and, if_neg (show ¬ k = m by omega)]
      · rw [if_neg (by omega), if_pos ⟨rfl, Nat.le_refl k⟩, Nat.sub_self, List.getElem?_cons_zero]
        simp only [ParserCounters.stats_recordModule hf hf, and_self, if_true]
      · rw [if_pos ⟨rfl, hgt⟩, if_pos ⟨rfl, by omega⟩, show k - m = (k - (m + 1)) + 1 by omega,
          List.getElem?_cons_succ]
        simp only [ParserCounters.stats_recordModule hf hf, true_and, if_neg (show ¬ k = m by omega)]
    · rw [if_neg (by tauto), if_neg (by tauto)]
      simp only [ParserCounters.stats_recordModule he hf, if_neg (show ¬ (f = e ∧ k = m) by tauto)]

theorem ModuleStats.sizeMin_record (st : ModuleStats) (size : Counter) :
    (st.record size).sizeMin.toNat = min st.sizeMin.toNat size.toNat := by
  unfold ModuleStats.record
  dsimp only
  split <;> rename_i h <;> rw [BitVec.le_def] at h <;> omega

theorem ModuleStats.sizeMax_record (st : ModuleStats) (size : Counter) :
    (st.record size).sizeMax.toNat = max st.sizeMax.toNat size.toNat := by
  unfold ModuleStats.record
  dsimp only
  split <;> rename_i h <;> rw [BitVec.le_def] at h <;> omega

theorem ParserCounters.recordModules_eq (e m : Nat) (ds : List ModuleData) (c : ParserCounters) :
    c.recordModules e m ds = { c with moduleStats := (c.recordModules e m ds).moduleStats } := by
  induction ds generalizing c m with
  | nil => rfl
  | cons d ds ih => rw [ParserCounters.recordModules, ih]; rfl

theorem Parser.eventModules_getElem? (P : Parser) {m : Nat} {d : ModuleData} (h : P.eventModules[m]? = some d) :
    m < P.modules.length ∧ d = P.moduleData m := by
  obtain ⟨hm, hd⟩ := List.getElem?_eq_some_iff.mp h
  simp only [Parser.eventModules, List.length_map, List.length_range] at hm
  refine ⟨hm, ?_⟩
  rw [← hd]
  simp [Parser.eventModules]

theorem Parser.length_eventModules (P : Parser) : P.eventModules.length = P.modules.length := by
  simp [Parser.eventModules]

/-- `complete_event()` emits the event and counts its modules (R257 to R259). -/
theorem Parser.emits_completeEvent (P : Parser) (he : P.eventIndex.toNat < 16) : P.Emits P.span P.completeEvent := by
  have hcounters : P.completeEvent.counters = P.counters.recordModules P.eventIndex.toNat 0 P.eventModules := rfl
  refine ⟨P.eventModules, P.length_eventModules, ?state, fun m d hd => ?_, fun f m hf hother => ?others⟩
  case state =>
    rw [hcounters, ← ParserCounters.recordModules_eq]
    rfl
  case others =>
    rw [hcounters, ParserCounters.stats_recordModules he hf]
    split
    · rename_i d hd
      split at hd
      · rename_i h
        obtain ⟨hlt, -⟩ := P.eventModules_getElem? hd
        omega
      · cases hd
    · rfl
  · obtain ⟨-, rfl⟩ := P.eventModules_getElem? hd
    have hstats : P.completeEvent.counters.stats P.eventIndex.toNat m =
        (P.counters.stats P.eventIndex.toNat m).record (BitVec.ofNat 64 (P.moduleData m).size) := by
      rw [hcounters, ParserCounters.stats_recordModules he he, if_pos ⟨rfl, Nat.zero_le m⟩, Nat.sub_zero, hd]
    rw [hstats, ModuleStats.sizeMin_record, ModuleStats.sizeMax_record, BitVec.toNat_ofNat]
    exact ⟨rfl, rfl, rfl, rfl, rfl⟩

/-- Only the spans of the row's modules count in an emission. -/
theorem Parser.Emits.congr_span {R Q : Parser} {sp sp' : Nat → Span} (h : R.Emits sp Q)
    (hsp : ∀ j, j < R.modules.length → sp j = sp' j) : R.Emits sp' Q := by
  obtain ⟨mods, hlen, hstate, heach, hothers⟩ := h
  refine ⟨mods, hlen, hstate, fun j d hd => ?_, hothers⟩
  obtain ⟨hj, -⟩ := List.getElem?_eq_some_iff.mp hd
  rw [← hsp j (hlen ▸ hj)]
  exact heach j d hd

/-! ## Entering modules (R246, R247) -/

/-- Module `m` entered: its spans empty at `used`, in its first phase, with no block open (R246). -/
def Parser.entered (m : Nat) (R : Parser) : Parser := Parser.enterModule m { R with moduleIndex := m }

/-- The spans of a module that holds no word yet (R246). -/
def Parser.emptySpan (R : Parser) : Span := ⟨⟨R.used, 0⟩, ⟨R.used, 0⟩, ⟨R.used, 0⟩⟩

section
variable {R : Parser} {m : Nat} {mod : ModuleShape}

theorem Parser.span_entered (R : Parser) (m j : Nat) :
    (R.entered m).span j = if j = m then R.emptySpan else R.span j :=
  Parser.span_setSpan _ m j _

theorem Parser.currentModule_entered (h : R.modules[m]? = some mod) : (R.entered m).currentModule = some mod := by
  rw [Parser.currentModule, if_neg (by simp [Parser.entered])]
  exact h

/-- A module `(0, 0, 0)` is passed over; any other one stands in its first phase that needs a word. -/
theorem Settles.entered {Q : Parser} (h : Settles (R.entered m) Q) (hmod : R.modules[m]? = some mod) :
    (∃ ph, mod.StartsIn ph ∧ Q = { R with moduleIndex := m, phase := ph, blockF := ⟨0, 0⟩, spans := Q.spans } ∧
      ∀ j, Q.span j = if j = m then R.emptySpan else R.span j) ∨
    mod = ⟨0, 0, false⟩ ∧ ∃ spans, (∀ j, Sparse.get Span.zero spans j = if j = m then R.emptySpan else R.span j) ∧
      (m + 1 < R.modules.length ∧ Settles (Parser.entered (m + 1) { R with spans := spans }) Q ∨
        m + 1 = R.modules.length ∧ Q = Parser.completeEvent
          { R with spans := spans, moduleIndex := m + 1, phase := .suffixPhase, blockF := ⟨0, 0⟩ }) := by
  have hcur := Parser.currentModule_entered hmod
  have hspan : (R.entered m).span m = R.emptySpan := by rw [Parser.span_entered, if_pos rfl]
  by_cases hpre : mod.prefixLen = 0
  · have hdone : (R.entered m).PhaseDone mod := by
      change ((R.entered m).span m).prefixSpan.size = mod.prefixLen.toNat
      rw [hspan, hpre]; rfl
    have hnext := h.of_prefixDone hcur hdone rfl
    have hspanNext (b : Bool) (j : Nat) :
        (Parser.leavePrefix b (R.entered m)).span j = if j = m then R.emptySpan else R.span j := by
      cases b
      · refine (Parser.span_setSpan _ m j _).trans ?_
        change (if j = m then ({ (R.entered m).span m with
          dynamicSpan := { ((R.entered m).span m).dynamicSpan with off := R.used }
          suffixSpan := { ((R.entered m).span m).suffixSpan with off := R.used } } : Span)
          else (R.entered m).span j) = _
        rw [hspan, Parser.span_entered]
        split <;> rfl
      · refine (Parser.span_setSpan _ m j _).trans ?_
        change (if j = m then ({ (R.entered m).span m with
          dynamicSpan := { ((R.entered m).span m).dynamicSpan with off := R.used } } : Span)
          else (R.entered m).span j) = _
        rw [hspan, Parser.span_entered]
        split <;> rfl
    cases hdyn : mod.hasDynamic with
    | true =>
      rw [hdyn] at hnext
      have hstop : ¬ (Parser.leavePrefix true (R.entered m)).PhaseDone mod := by
        change ¬ blockFinished Cursor.closed = true
        decide
      obtain rfl := hnext.eq_of_not_done hcur hstop
      exact .inl ⟨.dynamicPhase, .inr (.inl ⟨hpre, hdyn, rfl⟩), rfl, hspanNext true⟩
    | false =>
      rw [hdyn] at hnext
      have hcur' : (Parser.leavePrefix false (R.entered m)).currentModule = some mod := hcur
      have hsize : ((Parser.leavePrefix false (R.entered m)).span m).suffixSpan.size = 0 := by
        rw [hspanNext, if_pos rfl]; rfl
      by_cases hsuf : mod.suffixLen = 0
      · have hdone' : (Parser.leavePrefix false (R.entered m)).PhaseDone mod := by
          change ((Parser.leavePrefix false (R.entered m)).span m).suffixSpan.size = mod.suffixLen.toNat
          rw [hsize, hsuf]; rfl
        refine .inr ⟨by obtain ⟨a, b, c⟩ := mod; simp only at hpre hsuf hdyn; rw [hpre, hsuf, hdyn],
          (Parser.leavePrefix false (R.entered m)).spans, hspanNext false, ?_⟩
        have hcast : ((m : Int) + 1).toNat = m + 1 := by omega
        rcases hnext.of_suffixDone hcur' hdone' rfl with ⟨hlt, hs⟩ | ⟨hlast, hq⟩
        · have hlt' : (m : Int) + 1 < R.modules.length := hlt
          refine .inl ⟨by omega, ?_⟩
          change Settles (Parser.enterModule ((m : Int) + 1).toNat _) Q at hs
          rw [hcast] at hs
          exact hs
        · have hlast' : (m : Int) + 1 = R.modules.length := hlast
          exact .inr ⟨by omega, hq⟩
      · have hstop : ¬ (Parser.leavePrefix false (R.entered m)).PhaseDone mod := by
          change ¬ ((Parser.leavePrefix false (R.entered m)).span m).suffixSpan.size = mod.suffixLen.toNat
          rw [hsize]
          exact fun h0 => hsuf (BitVec.eq_of_toNat_eq h0.symm)
        obtain rfl := hnext.eq_of_not_done hcur' hstop
        exact .inl ⟨.suffixPhase, .inr (.inr ⟨hpre, hdyn, hsuf, rfl⟩), rfl, hspanNext false⟩
  · have hstop : ¬ (R.entered m).PhaseDone mod := by
      change ¬ ((R.entered m).span m).prefixSpan.size = mod.prefixLen.toNat
      rw [hspan]
      exact fun h0 => hpre (BitVec.eq_of_toNat_eq h0.symm)
    obtain rfl := h.eq_of_not_done hcur hstop
    exact .inl ⟨.prefixPhase, .inl ⟨hpre, rfl⟩, rfl, Parser.span_entered R m⟩

end

/-- A module `(0, 0, 0)` needs no word in any phase. -/
theorem not_startsIn_zero (ph : Phase) : ¬ (⟨0, 0, false⟩ : ModuleShape).StartsIn ph := by
  rintro (⟨h, -⟩ | ⟨-, h, -⟩ | ⟨-, -, h, -⟩)
  · exact h rfl
  · cases h
  · exact h rfl

/-- The first phase of a module that needs a word, from its shape (R247). -/
theorem eq_of_startsIn {mod : ModuleShape} {ph : Phase} (h : mod.StartsIn ph) :
    ph = if mod.prefixLen ≠ 0 then .prefixPhase else if mod.hasDynamic then .dynamicPhase else .suffixPhase := by
  rcases h with ⟨hp, rfl⟩ | ⟨hp, hd, rfl⟩ | ⟨hp, hd, -, rfl⟩
  · rw [if_pos hp]
  · rw [if_neg (not_not.mpr hp), hd, if_pos rfl]
  · rw [if_neg (not_not.mpr hp), hd, if_neg Bool.false_ne_true]

theorem startsIn_unique {mod : ModuleShape} {ph ph' : Phase} (h : mod.StartsIn ph) (h' : mod.StartsIn ph') :
    ph = ph' :=
  (eq_of_startsIn h).trans (eq_of_startsIn h').symm

/-- The modules from `m` on are entered as R246 and R247 say. -/
theorem Parser.entersFrom_of_settles {R Q : Parser} {m : Nat} (hm : m < R.modules.length)
    (he : R.eventIndex.toNat < 16) (h : Settles (R.entered m) Q) : R.EntersFrom m Q := by
  induction hn : R.modules.length - m using Nat.strongRecOn generalizing R m with
  | ind n ih =>
    subst hn
    have hmod : R.modules[m]? = some R.modules[m] := List.getElem?_eq_getElem hm
    rcases h.entered hmod with ⟨ph, hph, hQ, hspan⟩ | ⟨hzero, spans, hspans, hrest⟩
    · constructor
      · intro k mod' ph' hmk hk hph' hzeros
        obtain rfl : k = m := by
          by_contra hne
          rw [Option.some.inj (hmod.symm.trans (hzeros m (Nat.le_refl m) (by omega)))] at hph
          exact not_startsIn_zero ph hph
        rw [hmod] at hk
        cases hk
        obtain rfl := startsIn_unique hph hph'
        refine ⟨hQ, fun j => (hspan j).trans ?_⟩
        by_cases hj : j = k
        · rw [if_pos hj, if_pos (by omega)]; rfl
        · rw [if_neg hj, if_neg (by omega)]
      · intro hzeros
        rw [Option.some.inj (hmod.symm.trans (hzeros m (Nat.le_refl m) hm))] at hph
        exact absurd hph (not_startsIn_zero ph)
    · have hmod' : R.modules[m]? = some ⟨0, 0, false⟩ := by rw [hmod, hzero]
      have hget (j : Nat) : (if m ≤ j then R.emptySpan else R.span j) =
          if m + 1 ≤ j then R.emptySpan else Sparse.get Span.zero spans j := by
        rw [hspans]
        by_cases hj : j = m
        · rw [if_pos (by omega), if_neg (by omega), if_pos hj]
        · rw [if_neg hj]; exact if_congr (by omega) rfl rfl
      rcases hrest with ⟨hlt, hs⟩ | ⟨hlast, hq⟩
      · obtain ⟨hstarts, hends⟩ := @ih (R.modules.length - (m + 1)) (by omega) { R with spans := spans }
          (m + 1) hlt he hs rfl
        constructor
        · intro k mod' ph' hmk hk hph' hzeros
          have hne : k ≠ m := by
            rintro rfl
            rw [hmod'] at hk
            cases hk
            exact not_startsIn_zero ph' hph'
          obtain ⟨hQ, hsp⟩ := hstarts k mod' ph' (by omega) hk hph' fun j hj hjk => hzeros j (by omega) hjk
          refine ⟨hQ, fun j => (hsp j).trans ?_⟩
          change (if m + 1 ≤ j ∧ j ≤ k then R.emptySpan else Sparse.get Span.zero spans j) =
            if m ≤ j ∧ j ≤ k then R.emptySpan else R.span j
          have := hget j
          by_cases hjk : j ≤ k
          · simpa only [hjk, and_true] using this.symm
          · rw [if_neg (by omega), if_neg (by omega), hspans, if_neg (by omega)]
        · intro hzeros
          have hemit := hends fun j hj hjl => hzeros j (by omega) hjl
          exact (funext hget : (fun j => if m ≤ j then R.emptySpan else R.span j) = _) ▸ hemit
      · constructor
        · intro k mod' ph' hmk hk hph' hzeros
          obtain ⟨hkl, -⟩ := List.getElem?_eq_some_iff.mp hk
          obtain rfl : k = m := by omega
          rw [hmod'] at hk
          cases hk
          exact absurd hph' (not_startsIn_zero ph')
        · intro _
          subst hq
          have hemit := Parser.emits_completeEvent
            { R with spans := spans, moduleIndex := m + 1, phase := .suffixPhase, blockF := ⟨0, 0⟩ } he
          refine Parser.Emits.congr_span hemit fun j hj => ?_
          change j < R.modules.length at hj
          change Sparse.get Span.zero spans j = if m ≤ j then R.emptySpan else R.span j
          rw [hget j, if_neg (by omega)]

/-- A module complete in Suffix is followed by the modules after it, or by the event's emission (R247). -/
theorem Parser.entersFrom_of_suffixDone {R Q : Parser} {mod : ModuleShape} (h : Settles R Q)
    (hmod : R.currentModule = some mod) (hd : R.PhaseDone mod) (hp : R.phase = .suffixPhase)
    (he : R.eventIndex.toNat < 16) : R.EntersFrom (R.moduleIndex.toNat + 1) Q := by
  obtain ⟨h0, -, -⟩ := Parser.currentModule_eq_some hmod
  have hcast : (R.moduleIndex + 1).toNat = R.moduleIndex.toNat + 1 := by omega
  rcases h.of_suffixDone hmod hd hp with ⟨hlt, hs⟩ | ⟨hlast, rfl⟩
  · refine Parser.entersFrom_of_settles (by omega) he ?_
    rw [hcast] at hs
    rwa [Parser.entered, show ((R.moduleIndex.toNat + 1 : Nat) : Int) = R.moduleIndex + 1 by omega]
  · constructor
    · intro k mod' ph hk hk' hph hzeros
      obtain ⟨hkl, -⟩ := List.getElem?_eq_some_iff.mp hk'
      omega
    · intro _
      refine Parser.Emits.congr_span (Parser.emits_completeEvent { R with moduleIndex := R.moduleIndex + 1 } he)
        fun j hj => ?_
      change j < R.modules.length at hj
      rw [if_neg (by omega)]
      rfl

end Sys2Proof.Machine

/-! # One word of a unit, and the words of a packet header (O27 to O30, O32, O35, O38, O39) -/

namespace Sys2Proof.Machine

/-! ## The dispatch (R240) -/

section
variable {s : State} {w : Word}

theorem step_eq_dispatch (h : s.parser.nextWord = some (.frame, w)) :
    step s = .next (s.afterWord (s.parser.clearRaised.dispatch s.params w).unitProgress) := by
  rw [step_of_frameWord h, Parser.unitWord, s.parser.iteration_eq_dispatch s.params w (Parser.getElem?_of_nextWord h)]

/-- A word read in Idle (R241). -/
theorem step_of_idle (h : s.parser.nextWord = some (.frame, w)) (he : s.parser.eventIndex < 0) :
    step s = .next (s.afterWord (s.parser.clearRaised.idleStep s.params w).unitProgress) := by
  rw [step_eq_dispatch h, Parser.dispatch, if_pos (show s.parser.clearRaised.eventIndex < 0 from he)]

/-- A word read between stack frames (R254). -/
theorem step_of_await (h : s.parser.nextWord = some (.frame, w)) (he : 0 ≤ s.parser.eventIndex)
    (hl : s.parser.stackF.left = 0) :
    step s = .next (s.afterWord (s.parser.clearRaised.awaitStep w).unitProgress) := by
  rw [step_eq_dispatch h, Parser.dispatch, if_neg (show ¬ s.parser.clearRaised.eventIndex < 0 from not_lt.mpr he),
    if_pos (show s.parser.clearRaised.stackF.left = 0 from hl)]

/-- A word read inside a stack frame (R248). -/
theorem step_of_frame (h : s.parser.nextWord = some (.frame, w)) (he : 0 ≤ s.parser.eventIndex)
    (hl : s.parser.stackF.left ≠ 0) :
    step s = .next (s.afterWord (s.parser.clearRaised.frameStep s.params w).unitProgress) := by
  rw [step_eq_dispatch h, Parser.dispatch, if_neg (show ¬ s.parser.clearRaised.eventIndex < 0 from not_lt.mpr he),
    if_neg (show ¬ s.parser.clearRaised.stackF.left = 0 from hl)]

/-- A frame header that the open call reads does what the step does on its word. -/
theorem State.Reads.step {i : Instr} (h : s.Reads i) (hp : positionOf i = .frame) :
    ∃ w, encode s.params i = some w ∧ s.parser.nextWord = some (.frame, w) ∧ exec i s = Machine.step s := by
  obtain ⟨w, hw, hn⟩ := h.word
  exact ⟨w, hw, hp ▸ hn, exec_eq_step_of_reads h⟩

end

theorem Parser.raise_eq_afterError (o : ParseOutcome) (P : Parser) : P.raise o = P.afterError o := rfl

theorem Parser.skipWord_eq (P : Parser) : P.skipWord = P.markSkipped.afterUnused 1 := rfl

theorem Parser.skipFrame_eq (w : Word) (P : Parser) :
    P.skipFrame w = P.markSkipped.afterUnused (min (1 + payloadWords w) P.remaining) := rfl

theorem Parser.rejectStackFrame_eq (o : ParseOutcome) (P : Parser) :
    Parser.rejectStackFrame o (Parser.advance 1 P).markTook = (P.markTook.afterUnused 1).afterError o := rfl

/-! ## Idle (R242 to R244) -/

/-- Settles O28. -/
theorem foreignFramesAreSkippedInIdle : Obligations.ForeignFramesAreSkippedInIdle := by
  intro s f n c l hp he
  constructor <;> intro h <;> obtain ⟨w, hw, hn, hexec⟩ := h.step rfl <;> cases hw
  · rw [hexec, step_of_idle hn he, Parser.idleStep, typeOf_packHeader, frameKind_super, Parser.skipFrame_eq,
      payloadWords_packHeader]
    rfl
  · rw [hexec, step_of_idle hn he, Parser.idleStep, typeOf_packHeader, frameKind_stackErr hp, Parser.skipFrame_eq,
      payloadWords_packHeader]
    rfl

/-- Settles O29. -/
theorem otherWordsAreSkippedInIdle : Obligations.OtherWordsAreSkippedInIdle := by
  intro s hp he
  refine ⟨fun f n c l h => ?block, fun f n c l h => ?cont, fun w hn hk => ?other⟩
  case block =>
    obtain ⟨w, hw, hn, hexec⟩ := h.step rfl
    cases hw
    rw [hexec, step_of_idle hn he, Parser.idleStep, typeOf_packHeader, frameKind_block hp, Parser.skipWord_eq]
    rfl
  case cont =>
    obtain ⟨w, hw, hn, hexec⟩ := h.step rfl
    cases hw
    rw [hexec, step_of_idle hn he, Parser.idleStep, typeOf_packHeader, frameKind_cont hp, Parser.skipWord_eq]
    rfl
  case other =>
    rw [step_of_idle hn he, Parser.idleStep, hk, Parser.skipWord_eq]
    rfl

/-- The row that a stack number from 1 on selects (R22). -/
theorem ReadoutStructure.row_of_getElem? {rs : ReadoutStructure} {n : Nat} {row : List ModuleShape}
    (h : rs[n]? = some row) : ReadoutStructure.row rs n = row := by
  rw [ReadoutStructure.row, if_neg (by omega), Int.toNat_natCast, List.getD_eq_getElem?_getD, h, Option.getD_some]

theorem eventOfHeader_packHeader (t : BitVec 8) (f n : BitVec 4) (c : BitVec 3) (l : BitVec 13) :
    eventOfHeader (packHeader t f (n ++ c) l) = (n.toNat : Int) - 1 := by
  rw [eventOfHeader, stackNumOf_packHeader]

section
variable {s : State} {f n : BitVec 4} {c : BitVec 3} {l : BitVec 13}

theorem exec_stack_of_idle (hp : s.params.legal = true) (he : s.parser.eventIndex < 0)
    (h : s.Reads (.stack f n c l)) : exec (.stack f n c l) s = .next (s.afterWord
      (s.parser.clearRaised.idleStackFrame (packHeader 0xF3#8 f (n ++ c) l)).unitProgress) := by
  obtain ⟨w, hw, hn, hexec⟩ := h.step rfl
  cases hw
  rw [hexec, step_of_idle hn he, Parser.idleStep, typeOf_packHeader, frameKind_stack hp]

end

section
variable {P : Parser} {f n : BitVec 4} {c : BitVec 3} {l : BitVec 13}

/-- The checks of `idle_stack_frame` in their order (R242). -/
theorem Parser.idleStackFrame_packHeader : P.idleStackFrame (packHeader 0xF3#8 f (n ++ c) l) =
    if l = 0 then Parser.bumpResult .emptyStackFrame (Parser.advance 1 P).markTook
    else if n = 0 ∨ P.rs.length < n.toNat then
      Parser.rejectStackFrame .stackIndexOutOfRange (Parser.advance 1 P).markTook
    else if ReadoutStructure.row P.rs ((n.toNat : Int) - 1) = [] then
      Parser.rejectStackFrame .unexpectedNonEmptyStackFrame (Parser.advance 1 P).markTook
    else if P.blockF.left ≠ 0 then
      Parser.rejectStackFrame .unexpectedOpenBlockOnNewEvent (Parser.advance 1 P).markTook
    else Parser.startEvent ((n.toNat : Int) - 1) (packHeader 0xF3#8 f (n ++ c) l) (Parser.advance 1 P).markTook := by
  have hrange : ((n.toNat : Int) - 1 < 0 ∨ (P.rs.length : Int) ≤ (n.toNat : Int) - 1) ↔ n = 0 ∨ P.rs.length < n.toNat := by
    have hzero : n = 0 ↔ n.toNat = 0 := ⟨fun h => by rw [h]; rfl, fun h => BitVec.eq_of_toNat_eq h⟩
    rw [hzero]
    omega
  unfold Parser.idleStackFrame
  simp only [lengthOf_packHeader, eventOfHeader_packHeader]
  exact if_congr Iff.rfl rfl (if_congr hrange rfl rfl)

/-- The row of a stack number that selects one (R242, R245). -/
theorem row_of_stackNumber {row : List ModuleShape} (hn : n ≠ 0) (h : P.rs[n.toNat - 1]? = some row) :
    ¬ (n = 0 ∨ P.rs.length < n.toNat) ∧ ReadoutStructure.row P.rs ((n.toNat : Int) - 1) = row := by
  have hpos : n.toNat ≠ 0 := fun h0 => hn (BitVec.eq_of_toNat_eq h0)
  obtain ⟨hlt, -⟩ := List.getElem?_eq_some_iff.mp h
  refine ⟨fun h0 => h0.elim hn fun h0 => by omega, ?_⟩
  rw [show (n.toNat : Int) - 1 = ((n.toNat - 1 : Nat) : Int) by omega]
  exact ReadoutStructure.row_of_getElem? h

end

/-- Settles O30. -/
theorem stackHeadersThatStartNoEvent : Obligations.StackHeadersThatStartNoEvent := by
  intro s f n c l hp he h
  dsimp only
  rw [exec_stack_of_idle hp he h, Parser.idleStackFrame_packHeader]
  refine ⟨fun hl => ?_, fun hl hn => ?_, fun hl hn hrow => ?_, fun hl hn mod row hrow hb => ?_⟩
  · rw [if_pos hl]; rfl
  · rw [if_neg hl, if_pos (show n = 0 ∨ s.parser.clearRaised.rs.length < n.toNat from hn),
      Parser.rejectStackFrame_eq]
    rfl
  · obtain ⟨hin, hempty⟩ := row_of_stackNumber (P := s.parser.clearRaised) hn hrow
    rw [if_neg hl, if_neg hin, if_pos hempty, Parser.rejectStackFrame_eq]
    rfl
  · obtain ⟨hin, hmods⟩ := row_of_stackNumber (P := s.parser.clearRaised) hn hrow
    rw [if_neg hl, if_neg hin, hmods, if_neg (List.cons_ne_nil _ _),
      if_pos (show s.parser.clearRaised.blockF.left ≠ 0 from hb), Parser.rejectStackFrame_eq]
    rfl

/-! ## Between stack frames (R254) -/

theorem Parser.awaitStep_of_other {P : Parser} {w : Word} (hs : typeOf w ≠ 0xFA#8) (hc : typeOf w ≠ 0xF9#8) :
    P.awaitStep w = P.afterError .unexpectedFrameType := by
  rw [Parser.awaitStep, if_neg hs, if_neg hc, Parser.raise_eq_afterError]

theorem Parser.awaitStep_cont {P : Parser} {f n : BitVec 4} {c : BitVec 3} {l : BitVec 13} :
    P.awaitStep (packHeader 0xF9#8 f (n ++ c) l) =
      if n = stackNumOf P.stackF.hdr then
        Parser.advance 1 { P with stackF := ⟨packHeader 0xF9#8 f (n ++ c) l, l⟩ }
      else P.afterError .stackIndexChanged := by
  rw [Parser.awaitStep, typeOf_packHeader, if_neg (by decide), if_pos rfl, stackNumOf_packHeader, lengthOf_packHeader,
    Parser.raise_eq_afterError]

/-- Settles O32. -/
theorem onlyItsContinuationContinuesAnEvent : Obligations.OnlyItsContinuationContinuesAnEvent := by
  intro s f n c l hp he hl
  refine ⟨fun h hn => ?same, fun h hn => ?changed, fun i hi h => ?frame, fun w hw hk => ?other⟩
  case same =>
    obtain ⟨w, hw, hnext, hexec⟩ := h.step rfl
    cases hw
    rw [hexec, step_of_await hnext he hl, Parser.awaitStep_cont,
      if_pos (show n = stackNumOf s.parser.clearRaised.stackF.hdr from hn)]
    rfl
  case changed =>
    obtain ⟨w, hw, hnext, hexec⟩ := h.step rfl
    cases hw
    rw [hexec, step_of_await hnext he hl, Parser.awaitStep_cont,
      if_neg (show ¬ n = stackNumOf s.parser.clearRaised.stackF.hdr from hn)]
    rfl
  case frame =>
    obtain ⟨-, ⟨-, -, hsuper, hsuper'⟩, -, -, herr, herr'⟩ := legal_types hp
    simp only [List.mem_cons, List.not_mem_nil, or_false] at hi
    have error {i : Instr} {t : BitVec 8} (h : s.Reads i) (hpos : positionOf i = .frame)
        (henc : encode s.params i = some (packHeader t f (n ++ c) l)) (hs : t ≠ 0xFA#8) (hc : t ≠ 0xF9#8) :
        exec i s = .next (s.afterWord
          (s.parser.clearRaised.afterError .unexpectedFrameType).unitProgress) := by
      obtain ⟨w, hw, hnext, hexec⟩ := h.step hpos
      cases hw.symm.trans henc
      rw [hexec, step_of_await hnext he hl,
        Parser.awaitStep_of_other (by rwa [typeOf_packHeader]) (by rwa [typeOf_packHeader])]
    rcases hi with rfl | rfl | rfl | rfl
    · exact error h rfl rfl (by decide) (by decide)
    · exact error h rfl rfl (by decide) (by decide)
    · exact error h rfl rfl hsuper' hsuper
    · exact error h rfl rfl herr' herr
  case other =>
    have hkind := frameKind_type s.params (typeOf w)
    rw [hk] at hkind
    obtain ⟨-, -, -, -, hc, hs⟩ := hkind
    rw [step_of_await hw he hl, Parser.awaitStep_of_other hs hc]
    rfl

/-! ## A full scratch buffer (R264) -/

theorem Parser.abandonUnit_eq {P : Parser} (h : P.call.rp ≤ P.call.unit.length) :
    P.abandonUnit = P.afterUnused (P.call.unit.length - P.call.rp) := by
  unfold Parser.abandonUnit Parser.afterUnused
  rw [Nat.add_sub_cancel' h]
  rfl

/-- A word that would be copied, the scratch buffer being full (R264). -/
theorem Parser.frameStep_full {P : Parser} {p : Params} {w : Word} (hfull : p.scratchWords ≤ P.used)
    (hcopy : P.phase = .dynamicPhase → P.blockF.left ≠ 0) : P.frameStep p w = P.fault .unhandledException := by
  have hfault (ph : Phase) : P.copy p ph w = P.fault .unhandledException := by rw [Parser.copy, if_pos hfull]
  have hidle : ¬ 0 ≤ (P.fault .unhandledException).eventIndex := by simp
  have hword : P.frameWord p w = P.fault .unhandledException := by
    unfold Parser.frameWord
    split
    · exact hfault _
    · rename_i hph
      rw [if_neg (hcopy hph), Parser.dynData, hfault]
      exact if_neg hidle
    · exact hfault _
  rw [Parser.frameStep, hword]
  exact if_neg hidle

/-- Settles O35. -/
theorem fullScratchAbandonsTheUnit : Obligations.FullScratchAbandonsTheUnit := by
  intro s w hw he hl hfull hcopy
  have hrp := Parser.rp_lt_of_getElem? _ w (Parser.getElem?_of_nextWord hw)
  rw [step_of_frame hw he hl, Parser.frameStep_full (P := s.parser.clearRaised) hfull.ge
    fun hph => hcopy.resolve_left (not_not.mpr hph), Parser.fault, Parser.abandonUnit_eq (by simpa using hrp.le)]
  rfl

/-! ## The words of a packet header (R185 to R188) -/

/-- Settles O38. -/
theorem eth0ChecksThePacketNumber : Obligations.Eth0ChecksThePacketNumber := by
  intro s ch n g d rest hst
  have hgap : seqGap s.parser.lastPacketNumber n = 0 ↔ n = s.parser.lastPacketNumber + 1 := by
    unfold seqGap
    constructor <;> intro h <;> bv_omega
  rw [exec_eth0 hst]
  simp only [Parser.ethWord0, number_packEth0, Parser.packetSeqCheck]
  constructor
  · intro h
    have hkept : ¬ (s.parser.pktSeqValid = true ∧ seqGap s.parser.lastPacketNumber n ≠ 0) := by
      rintro ⟨hv, hg⟩
      rcases h with h | h
      · rw [h] at hv; cases hv
      · exact hg (hgap.mpr h)
    rw [if_neg hkept]
    rfl
  · intro hv hne
    rw [if_pos ⟨hv, fun hg => hne (hgap.mp hg)⟩]
    rfl

/-- Settles O39. -/
theorem eth1OpensThePacketsUnit : Obligations.Eth1OpensThePacketsUnit := by
  intro s w0 ts hp rest hst
  have hdata : packetDataWords (field w0 0 13) rest = min (w0.toNat % 2 ^ 13) rest.length := by
    rw [packetDataWords, show field w0 0 13 = lengthOf w0 from rfl, toNat_lengthOf]
  rw [exec_eth1 hst]
  simp only [Parser.ethWord1, List.drop_one, List.tail_cons, hdata]
  rfl

/-! ## The end of a unit (R189, R190) -/

/-- The outcome a unit is counted under, if any (R189). -/
def Parser.unitResult (P : Parser) : Option ParseOutcome :=
  if P.call.unitFirst ≠ none then none
  else if P.call.unitStartedIdle = true ∧ P.call.unitTook = false ∧ P.call.unitSkipped = true then
    some .noStackFrameFound
  else if 0 ≤ P.eventIndex then some .needMoreInput else some .ok

theorem Parser.unitOutcome_eq (P : Parser) : P.unitOutcome = { P with
    counters := { P.counters with parseResults := match P.unitResult with
      | some o => P.counters.parseResults.bump o
      | none => P.counters.parseResults }
    call := { P.call with callFirst :=
      if P.unitResult = some .noStackFrameFound then P.call.callFirst.or P.unitResult else P.call.callFirst } } := by
  by_cases hf : P.call.unitFirst = none
  · have hopen : ¬ P.call.unitFirst.isSome = true := by simp [hf]
    by_cases hskip : P.call.unitStartedIdle = true ∧ P.call.unitTook = false ∧ P.call.unitSkipped = true
    · have hres : P.unitResult = some .noStackFrameFound := by
        rw [Parser.unitResult, if_neg (not_not.mpr hf), if_pos hskip]
      rw [Parser.unitOutcome, if_neg hopen, if_pos (by simpa [and_assoc] using hskip), hres]
      rfl
    · by_cases he : 0 ≤ P.eventIndex
      · have hres : P.unitResult = some .needMoreInput := by
          rw [Parser.unitResult, if_neg (not_not.mpr hf), if_neg hskip, if_pos he]
        rw [Parser.unitOutcome, if_neg hopen, if_neg (by simpa [and_assoc] using hskip), if_pos he, hres]
        rfl
      · have hres : P.unitResult = some .ok := by
          rw [Parser.unitResult, if_neg (not_not.mpr hf), if_neg hskip, if_neg he]
        rw [Parser.unitOutcome, if_neg hopen, if_neg (by simpa [and_assoc] using hskip), if_neg he, hres]
        rfl
  · have hres : P.unitResult = none := by rw [Parser.unitResult, if_pos hf]
    rw [Parser.unitOutcome, if_pos (by simpa [Option.isSome_iff_ne_none] using hf), hres]
    rfl

/-- The first outcome of the call, with the one of this unit (R189, R190). -/
theorem Parser.callOutcome_eq (P : Parser) :
    P.callOutcome = P.call.callFirst.getD (if 0 ≤ P.eventIndex then .needMoreInput else .ok) := by
  unfold Parser.callOutcome
  cases P.call.callFirst <;> rfl

theorem State.afterWord_over (s : State) (R : Parser) :
    s.afterWord (R, true) = { s with parser := R.endCall, result := .outcome R.callOutcome } := rfl

theorem State.afterWord_goesOn (s : State) (R : Parser) : s.afterWord (R, false) = { s with parser := R } := rfl

/-- Settles O27. -/
theorem unitEndFormsTheOutcome : Obligations.UnitEndFormsTheOutcome := by
  intro s Q
  refine ⟨fun h => ?_, fun h => ?_⟩
  · rw [Parser.unitProgress, if_pos h]; rfl
  · have hend : ¬ Q.call.rp < Q.call.unit.length := not_lt.mpr h
    refine ⟨fun hst => ?usb, fun hst => ?none, fun w hst => ?one, fun w0 w1 rest hst => ?more⟩
    case usb =>
      simp only [Parser.unitProgress, if_neg hend, hst, State.afterWord_over, Parser.unitOutcome_eq,
        Parser.callOutcome_eq, BitVec.add_zero]
      rfl
    case none =>
      simp only [Parser.unitProgress, if_neg hend, hst, Parser.nextPacket, State.afterWord_over,
        Parser.unitOutcome_eq, Parser.callOutcome_eq, BitVec.add_zero]
      rfl
    case one =>
      simp only [Parser.unitProgress, if_neg hend, hst, Parser.nextPacket, State.afterWord_over,
        Parser.unitOutcome_eq, Parser.callOutcome_eq]
      rfl
    case more =>
      simp only [Parser.unitProgress, if_neg hend, hst, Parser.nextPacket, State.afterWord_goesOn,
        Parser.unitOutcome_eq, BitVec.add_zero]
      rfl

end Sys2Proof.Machine

/-! # Words inside a stack frame, the start of an event, and system events (O31, O33, O34, O36, O37) -/

namespace Sys2Proof.Machine

/-! ## Starting an event (R245) -/

theorem Parser.startEvent_eq (ev : Int) (w : Word) (P : Parser) : P.startEvent ev w = (Parser.entered 0 { P with
    eventIndex := ev, moduleIndex := 0, phase := .prefixPhase, stackF := ⟨w, lengthOf w⟩, blockF := ⟨0, 0⟩
    used := 0, spans := [] }).settle := rfl

/-- Settles O31. -/
theorem stackHeadersStartEvents : Obligations.StackHeadersStartEvents := by
  intro s f n c l row hp he h hl hn hrow hne hb R
  obtain ⟨hin, hmods⟩ := row_of_stackNumber (P := s.parser.clearRaised) hn hrow
  have hR : R.modules = row := hmods
  have hpos : 0 < R.modules.length := hR ▸ List.length_pos_of_ne_nil hne
  refine ⟨hR, (R.entered 0).settle, ?_, ?_⟩
  · rw [exec_stack_of_idle hp he h, Parser.idleStackFrame_packHeader, if_neg hl, if_neg hin, hmods, if_neg hne,
      if_neg (show ¬ s.parser.clearRaised.blockF.left ≠ 0 from not_not.mpr hb), Parser.startEvent_eq,
      lengthOf_packHeader]
    rfl
  · refine Parser.entersFrom_of_settles hpos ?_ (settles_settle (Int.le_refl 0) (show (0 : Int) < R.modules.length by omega))
    have hlt : n.toNat < 16 := n.isLt
    show ((n.toNat : Int) - 1).toNat < 16
    omega

/-! ## Where a settled module goes on (R247) -/

theorem Parser.span_leavePrefix (P : Parser) (d : Bool) (j : Nat) : (P.leavePrefix d).span j =
    if j = P.moduleIndex.toNat then ⟨(P.span j).prefixSpan, ⟨P.used, (P.span j).dynamicSpan.size⟩,
      if d then (P.span j).suffixSpan else ⟨P.used, (P.span j).suffixSpan.size⟩⟩ else P.span j := by
  cases d
  · refine (Parser.span_setSpan P _ j _).trans ?_
    split <;> rename_i h
    · subst h; rfl
    · rfl
  · refine (Parser.span_setSpan P _ j _).trans ?_
    split <;> rename_i h
    · subst h; rfl
    · rfl

theorem Parser.span_leaveDynamic (P : Parser) (j : Nat) : P.leaveDynamic.span j =
    if j = P.moduleIndex.toNat then { P.span j with suffixSpan := { (P.span j).suffixSpan with off := P.used } }
    else P.span j := by
  refine (Parser.span_setSpan P _ j _).trans ?_
  split <;> rename_i h
  · subst h; rfl
  · rfl

theorem Parser.phaseDone_leavePrefix {T : Parser} {mod : ModuleShape} : (T.leavePrefix false).PhaseDone mod ↔
    (T.span T.moduleIndex.toNat).suffixSpan.size = mod.suffixLen.toNat := by
  rw [Parser.phaseDone_suffix rfl, Parser.span_leavePrefix, Parser.leavePrefix_moduleIndex, if_pos rfl]
  rfl

theorem Parser.phaseDone_leaveDynamic {T : Parser} {mod : ModuleShape} : T.leaveDynamic.PhaseDone mod ↔
    (T.span T.moduleIndex.toNat).suffixSpan.size = mod.suffixLen.toNat := by
  rw [Parser.phaseDone_suffix rfl, Parser.span_leaveDynamic,
    if_pos (show T.leaveDynamic.moduleIndex.toNat = T.moduleIndex.toNat from rfl)]
  rfl

section
variable {T : Parser} {mod : ModuleShape} (hmod : T.currentModule = some mod)
include hmod

theorem Parser.settles_settle_of_currentModule : Settles T T.settle := by
  obtain ⟨h0, hlt, -⟩ := Parser.currentModule_eq_some hmod
  exact settles_settle h0 hlt

section
variable (hp : T.phase = .prefixPhase) (hd : (T.span T.moduleIndex.toNat).prefixSpan.size = mod.prefixLen.toNat)
include hp hd

theorem Parser.settles_leavePrefix : Settles (T.leavePrefix mod.hasDynamic) T.settle :=
  (Parser.settles_settle_of_currentModule hmod).of_prefixDone hmod ((Parser.phaseDone_prefix hp).mpr hd) hp

theorem Parser.settle_prefix_dynamic (hdyn : mod.hasDynamic = true) : T.settle = T.leavePrefix true := by
  have h := Parser.settles_leavePrefix hmod hp hd
  rw [hdyn] at h
  refine h.eq_of_not_done hmod ?_
  rw [Parser.phaseDone_dynamic rfl]
  exact (by decide : ¬ blockFinished Cursor.closed = true)

section
variable (hdyn : mod.hasDynamic = false)
include hdyn

theorem Parser.settle_prefix_suffix
    (hs : (T.span T.moduleIndex.toNat).suffixSpan.size ≠ mod.suffixLen.toNat) : T.settle = T.leavePrefix false := by
  have h := Parser.settles_leavePrefix hmod hp hd
  rw [hdyn] at h
  exact h.eq_of_not_done hmod (mt Parser.phaseDone_leavePrefix.mp hs)

theorem Parser.entersFrom_prefix (he : T.eventIndex.toNat < 16)
    (hs : (T.span T.moduleIndex.toNat).suffixSpan.size = mod.suffixLen.toNat) :
    (T.leavePrefix false).EntersFrom (T.moduleIndex.toNat + 1) T.settle := by
  have h := Parser.settles_leavePrefix hmod hp hd
  rw [hdyn] at h
  exact Parser.entersFrom_of_suffixDone h hmod (Parser.phaseDone_leavePrefix.mpr hs) rfl he

end
end

section
variable (hp : T.phase = .dynamicPhase) (hb : blockFinished T.blockF = true)
include hp hb

theorem Parser.settles_leaveDynamic : Settles T.leaveDynamic T.settle :=
  (Parser.settles_settle_of_currentModule hmod).of_dynamicDone hmod ((Parser.phaseDone_dynamic hp).mpr hb) hp

theorem Parser.settle_dynamic_suffix
    (hs : (T.span T.moduleIndex.toNat).suffixSpan.size ≠ mod.suffixLen.toNat) : T.settle = T.leaveDynamic :=
  (Parser.settles_leaveDynamic hmod hp hb).eq_of_not_done hmod (mt Parser.phaseDone_leaveDynamic.mp hs)

theorem Parser.entersFrom_dynamic (he : T.eventIndex.toNat < 16)
    (hs : (T.span T.moduleIndex.toNat).suffixSpan.size = mod.suffixLen.toNat) :
    T.leaveDynamic.EntersFrom (T.moduleIndex.toNat + 1) T.settle :=
  Parser.entersFrom_of_suffixDone (Parser.settles_leaveDynamic hmod hp hb) hmod
    (Parser.phaseDone_leaveDynamic.mpr hs) rfl he

end

theorem Parser.entersFrom_suffix (hp : T.phase = .suffixPhase) (he : T.eventIndex.toNat < 16)
    (hs : (T.span T.moduleIndex.toNat).suffixSpan.size = mod.suffixLen.toNat) :
    T.EntersFrom (T.moduleIndex.toNat + 1) T.settle :=
  Parser.entersFrom_of_suffixDone (Parser.settles_settle_of_currentModule hmod) hmod
    ((Parser.phaseDone_suffix hp).mpr hs) hp he

/-- A phase that still needs a word is not left. -/
theorem Parser.settle_prefix (hp : T.phase = .prefixPhase)
    (hd : (T.span T.moduleIndex.toNat).prefixSpan.size ≠ mod.prefixLen.toNat) : T.settle = T :=
  Parser.settle_of_not_done hmod (mt (Parser.phaseDone_prefix hp).mp hd)

theorem Parser.settle_suffix (hp : T.phase = .suffixPhase)
    (hd : (T.span T.moduleIndex.toNat).suffixSpan.size ≠ mod.suffixLen.toNat) : T.settle = T :=
  Parser.settle_of_not_done hmod (mt (Parser.phaseDone_suffix hp).mp hd)

end

/-- In Dynamic nothing is settled before the block is over. -/
theorem Parser.settle_dynamic {T : Parser} (hp : T.phase = .dynamicPhase) (hb : ¬ blockFinished T.blockF = true) :
    T.settle = T := by
  cases hmod : T.currentModule with
  | none => exact Parser.settle_of_none hmod
  | some mod => exact Parser.settle_of_not_done hmod (mt (Parser.phaseDone_dynamic hp).mp hb)

/-! ## A payload word (R252, R253) -/

/-- The word `w` copied to the part that the phase names, the open block then being `b` (R252). -/
def Parser.stored (w : Word) (b : Cursor) (P : Parser) : Parser :=
  Parser.consume { P.setSpan P.moduleIndex.toNat ((P.span P.moduleIndex.toNat).grow P.phase) with
    scratch := Memory.write P.scratch P.used w
    used := P.used + 1
    blockF := b }

section
variable {P : Parser} {p : Params} {w : Word} {mod : ModuleShape} {b : Cursor}

theorem Parser.span_stored (j : Nat) : (P.stored w b).span j =
    if j = P.moduleIndex.toNat then (P.span P.moduleIndex.toNat).grow P.phase else P.span j :=
  Parser.span_setSpan P _ j _

theorem Memory.readWord_write (m : Sparse Word) (a j : Nat) (w : Word) :
    Memory.readWord (Memory.write m a w) j = if j = a then w else Memory.readWord m j := by
  split
  · rename_i h; rw [h, Memory.readWord_write_self]
  · rename_i h; exact Memory.readWord_write_of_ne m a j w h

theorem Parser.frameStep_data (he : 0 ≤ P.eventIndex) (hu : P.used < p.scratchWords) (hp : P.phase ≠ .dynamicPhase) :
    P.frameStep p w = (P.stored w P.blockF).settle := by
  have hword : P.frameWord p w = P.stored w P.blockF := by
    unfold Parser.frameWord Parser.copy
    split <;> rename_i hph
    · rw [if_neg (not_le.mpr hu), Parser.stored, hph]; rfl
    · exact absurd hph hp
    · rw [if_neg (not_le.mpr hu), Parser.stored, hph]; rfl
  rw [Parser.frameStep, hword]
  exact if_pos he

theorem Parser.frameStep_dynData (he : 0 ≤ P.eventIndex) (hu : P.used < p.scratchWords) (hp : P.phase = .dynamicPhase)
    (hb : P.blockF.left ≠ 0) :
    P.frameStep p w = (P.stored w ⟨P.blockF.hdr, P.blockF.left - 1⟩).settle := by
  have hword : P.frameWord p w = P.stored w ⟨P.blockF.hdr, P.blockF.left - 1⟩ := by
    rw [Parser.frameWord, hp]
    dsimp only
    rw [if_neg hb, Parser.dynData, Parser.copy, if_neg (not_le.mpr hu), Parser.stored, hp]
    exact if_pos he
  rw [Parser.frameStep, hword]
  exact if_pos he

end

/-- The open block of a payload word is over with its last word (R247, R253). -/
theorem blockFinished_iff (b : Cursor) :
    blockFinished b = true ↔ b.hdr ≠ 0 ∧ b.left = 0 ∧ hasContinue b.hdr = false := by
  simp [blockFinished, and_assoc]

/-- `Q` is `P` after the payload word `w` (R252): it stands in the scratch buffer, the spans of the current module are
then `sp`, and what phase and block the module goes on with is open. -/
structure Parser.Took (P : Parser) (w : Word) (sp : Span) (Q : Parser) : Prop where
  state : Q = { P with
    scratch := Memory.write P.scratch P.used w, spans := Q.spans, used := P.used + 1
    phase := Q.phase, blockF := Q.blockF
    stackF := { P.stackF with left := P.stackF.left - 1 }
    call := { P.call with rp := P.call.rp + 1 } }
  span : ∀ j, Q.span j = if j = P.moduleIndex.toNat then sp else P.span j

section
variable {P T : Parser} {w : Word} {b : Cursor} {sp : Span}

theorem Parser.Took.moduleIndex (h : P.Took w sp T) : T.moduleIndex = P.moduleIndex := by rw [h.state]

theorem Parser.Took.used (h : P.Took w sp T) : T.used = P.used + 1 := by rw [h.state]

theorem Parser.Took.eventIndex (h : P.Took w sp T) : T.eventIndex = P.eventIndex := by rw [h.state]

theorem Parser.Took.currentModule (h : P.Took w sp T) : T.currentModule = P.currentModule := by
  rw [h.state]
  rfl

theorem Parser.Took.span_current (h : P.Took w sp T) : T.span T.moduleIndex.toNat = sp := by
  rw [h.moduleIndex, h.span, if_pos rfl]

theorem Parser.took_stored_prefix (hp : P.phase = .prefixPhase) : P.Took w
    { P.span P.moduleIndex.toNat with prefixSpan := ⟨(P.span P.moduleIndex.toNat).prefixSpan.off,
      (P.span P.moduleIndex.toNat).prefixSpan.size + 1⟩ } (P.stored w b) :=
  ⟨rfl, fun j => (Parser.span_stored j).trans (by rw [hp]; rfl)⟩

theorem Parser.took_stored_dynamic (hp : P.phase = .dynamicPhase) : P.Took w
    { P.span P.moduleIndex.toNat with dynamicSpan := ⟨(P.span P.moduleIndex.toNat).dynamicSpan.off,
      (P.span P.moduleIndex.toNat).dynamicSpan.size + 1⟩ } (P.stored w b) :=
  ⟨rfl, fun j => (Parser.span_stored j).trans (by rw [hp]; rfl)⟩

theorem Parser.took_stored_suffix (hp : P.phase = .suffixPhase) : P.Took w
    { P.span P.moduleIndex.toNat with suffixSpan := ⟨(P.span P.moduleIndex.toNat).suffixSpan.off,
      (P.span P.moduleIndex.toNat).suffixSpan.size + 1⟩ } (P.stored w b) :=
  ⟨rfl, fun j => (Parser.span_stored j).trans (by rw [hp]; rfl)⟩

theorem Parser.leavePrefix_eq (T : Parser) (d : Bool) : T.leavePrefix d = { T with
    spans := (T.leavePrefix d).spans, phase := (T.leavePrefix d).phase, blockF := (T.leavePrefix d).blockF } := by
  cases d <;> rfl

theorem Parser.Took.leavePrefix (h : P.Took w sp T) (d : Bool) : P.Took w ⟨sp.prefixSpan,
    ⟨P.used + 1, sp.dynamicSpan.size⟩, if d then sp.suffixSpan else ⟨P.used + 1, sp.suffixSpan.size⟩⟩
    (T.leavePrefix d) := by
  refine ⟨?_, fun j => ?_⟩
  · refine (Parser.leavePrefix_eq T d).trans ?_
    generalize T.leavePrefix d = L
    rw [h.state]
  · rw [Parser.span_leavePrefix, h.moduleIndex, h.used]
    exact ite_congr rfl (fun hj => by rw [h.span, if_pos hj]) fun hj => by rw [h.span, if_neg hj]

theorem Parser.leaveDynamic_eq (T : Parser) : T.leaveDynamic = { T with
    spans := T.leaveDynamic.spans, phase := T.leaveDynamic.phase, blockF := T.leaveDynamic.blockF } := rfl

theorem Parser.Took.leaveDynamic (h : P.Took w sp T) : P.Took w
    { sp with suffixSpan := ⟨P.used + 1, sp.suffixSpan.size⟩ } T.leaveDynamic := by
  refine ⟨?_, fun j => ?_⟩
  · refine (Parser.leaveDynamic_eq T).trans ?_
    generalize T.leaveDynamic = L
    rw [h.state]
  · rw [Parser.span_leaveDynamic, h.moduleIndex, h.used]
    exact ite_congr rfl (fun hj => by rw [h.span, if_pos hj]) fun hj => by rw [h.span, if_neg hj]

/-- A payload word read by the step, with the phase and the block it leaves (R252). -/
theorem Parser.Took.of_clearRaised {ph : Phase} (h : P.clearRaised.Took w sp T) (hp : T.phase = ph)
    (hb : T.blockF = b) :
    T = { P with
      scratch := T.scratch, spans := T.spans, used := P.used + 1, phase := ph, blockF := b
      stackF := { P.stackF with left := P.stackF.left - 1 }
      call := { P.call with rp := P.call.rp + 1, raised := false } } ∧
    (∀ a, Memory.readWord T.scratch a = if a = P.used then w else Memory.readWord P.scratch a) ∧
    ∀ j, T.span j = if j = P.moduleIndex.toNat then sp else P.span j := by
  have hscratch : T.scratch = Memory.write P.scratch P.used w := by rw [h.state]; rfl
  refine ⟨?_, fun a => by rw [hscratch, Memory.readWord_write], h.span⟩
  rw [hscratch, ← hp, ← hb]
  exact h.state

end

section
variable {s : State} {w : Word} (hn : s.parser.nextWord = some (.frame, w)) (he : 0 ≤ s.parser.eventIndex)
  (hl : s.parser.stackF.left ≠ 0) (hu : s.parser.used < s.params.scratchWords)
include hn he hl hu

/-- A payload word outside the dynamic part (R252). -/
theorem step_of_data (hp : s.parser.phase ≠ .dynamicPhase) :
    step s = .next (s.afterWord (s.parser.clearRaised.stored w s.parser.blockF).settle.unitProgress) := by
  rw [step_of_frame hn he hl, Parser.frameStep_data (P := s.parser.clearRaised) he hu hp]
  rfl

/-- A payload word of a block (R253). -/
theorem step_of_dynData (hp : s.parser.phase = .dynamicPhase) (hb : s.parser.blockF.left ≠ 0) :
    step s = .next (s.afterWord (s.parser.clearRaised.stored w
      ⟨s.parser.blockF.hdr, s.parser.blockF.left - 1⟩).settle.unitProgress) := by
  rw [step_of_frame hn he hl, Parser.frameStep_dynData (P := s.parser.clearRaised) he hu hp hb]
  rfl

end

/-- Settles O34. -/
theorem payloadWordsAreCopied : Obligations.PayloadWordsAreCopied := by
  intro s w mod ph sp block hn he hl hu hmod old b next pre dyn suf hcases
  rcases hcases with ⟨hp, hpre⟩ | ⟨hp, hb, rfl, hdyn⟩ | ⟨hp, hsuf, rfl, rfl, rfl⟩
  case inl =>
    have hT := Parser.took_stored_prefix (P := s.parser.clearRaised) (w := w) (b := b) hp
    have hsp := hT.span_current
    have hcur := hT.currentModule.trans hmod
    have hstep := step_of_data hn he hl hu (by rw [hp]; decide)
    change step s = .next (s.afterWord (s.parser.clearRaised.stored w b).settle.unitProgress) at hstep
    have hphase : (s.parser.clearRaised.stored w b).phase = .prefixPhase := hp
    have hblock : (s.parser.clearRaised.stored w b).blockF = b := rfl
    generalize s.parser.clearRaised.stored w b = T at *
    rcases hpre with ⟨hmore, rfl, rfl, rfl⟩ | ⟨hlast, hdyn, rfl, rfl, rfl⟩ | ⟨hlast, hdyn, hsuf, rfl, rfl, rfl⟩
    · rw [Parser.settle_prefix hcur hphase (hsp ▸ hmore)] at hstep
      exact ⟨T, hstep, hT.of_clearRaised hphase hblock⟩
    · rw [Parser.settle_prefix_dynamic hcur hphase (hsp ▸ hlast) hdyn] at hstep
      exact ⟨_, hstep, (hT.leavePrefix true).of_clearRaised rfl rfl⟩
    · rw [Parser.settle_prefix_suffix hcur hphase (hsp ▸ hlast) hdyn (hsp ▸ hsuf)] at hstep
      exact ⟨_, hstep, (hT.leavePrefix false).of_clearRaised rfl hblock⟩
  case inr.inl =>
    have hT := Parser.took_stored_dynamic (P := s.parser.clearRaised) (w := w) (b := ⟨b.hdr, b.left - 1⟩) hp
    have hsp := hT.span_current
    have hcur := hT.currentModule.trans hmod
    have hstep := step_of_dynData hn he hl hu hp hb
    change step s = .next (s.afterWord (s.parser.clearRaised.stored w ⟨b.hdr, b.left - 1⟩).settle.unitProgress) at hstep
    have hphase : (s.parser.clearRaised.stored w ⟨b.hdr, b.left - 1⟩).phase = .dynamicPhase := hp
    have hblock : (s.parser.clearRaised.stored w ⟨b.hdr, b.left - 1⟩).blockF = ⟨b.hdr, b.left - 1⟩ := rfl
    generalize s.parser.clearRaised.stored w ⟨b.hdr, b.left - 1⟩ = T at *
    rcases hdyn with ⟨hopen, rfl, rfl⟩ | ⟨hleft, hhdr, hcont, hsuf, rfl, rfl⟩
    · have hnot : ¬ blockFinished T.blockF = true := by
        rw [hblock, blockFinished_iff]
        rintro ⟨-, h0, hc⟩
        rcases hopen with h | h
        · exact h (by change b.left - 1 = 0 at h0; bv_omega)
        · rw [h] at hc; cases hc
      rw [Parser.settle_dynamic hphase hnot] at hstep
      exact ⟨T, hstep, hT.of_clearRaised hphase hblock⟩
    · have hover : blockFinished T.blockF = true := by
        rw [hblock, blockFinished_iff, hleft]
        exact ⟨hhdr, rfl, hcont⟩
      rw [Parser.settle_dynamic_suffix hcur hphase hover (hsp ▸ hsuf)] at hstep
      exact ⟨_, hstep, hT.leaveDynamic.of_clearRaised rfl hblock⟩
  case inr.inr =>
    have hT := Parser.took_stored_suffix (P := s.parser.clearRaised) (w := w) (b := s.parser.blockF) hp
    have hsp := hT.span_current
    have hstep := step_of_data hn he hl hu (by rw [hp]; decide)
    rw [Parser.settle_suffix (hT.currentModule.trans hmod) hp (hsp ▸ hsuf)] at hstep
    exact ⟨_, hstep, hT.of_clearRaised hp rfl⟩

/-! ## The header of a block (R250, R251) -/

/-- The block of header `w` opened in the current module (R250). -/
def Parser.openBlock (w : Word) (P : Parser) : Parser :=
  { P with
    stackF := { P.stackF with left := P.stackF.left - 1 }
    blockF := ⟨w, lengthOf w⟩
    call := { P.call with rp := P.call.rp + 1 } }

section
variable {P : Parser} {p : Params} {w : Word} (hp : P.phase = .dynamicPhase) (hb : P.blockF.left = 0)
include hp hb

theorem Parser.frameStep_blockHeader (he : 0 ≤ P.eventIndex) (ht : typeOf w = 0xF5#8) :
    P.frameStep p w = (P.openBlock w).settle := by
  have hword : P.frameWord p w = P.openBlock w := by
    rw [Parser.frameWord, hp]
    dsimp only
    rw [if_pos hb, Parser.blockHeader, if_pos ht]
    rfl
  rw [Parser.frameStep, hword]
  exact if_pos he

theorem Parser.frameStep_other (ht : typeOf w ≠ 0xF5#8) :
    P.frameStep p w = P.afterError .unexpectedFrameType := by
  have hword : P.frameWord p w = P.afterError .unexpectedFrameType := by
    rw [Parser.frameWord, hp]
    dsimp only
    rw [if_pos hb, Parser.blockHeader, if_neg ht, Parser.raise_eq_afterError]
  rw [Parser.frameStep, hword]
  exact if_neg (by decide : ¬ (0 : Int) ≤ -1)

end

/-- A BlockRead header of length 0 without Continue is a block that is over (R247). -/
theorem blockFinished_packHeader (f : BitVec 4) (i : BitVec 7) (l : BitVec 13) :
    blockFinished ⟨packHeader 0xF5#8 f i l, l⟩ = true ↔ l = 0 ∧ f.getLsbD 3 = false := by
  have hne : packHeader 0xF5#8 f i l ≠ 0 := by
    intro h
    have ht := typeOf_packHeader 0xF5#8 f i l
    rw [h] at ht
    exact absurd ht (by decide)
  rw [blockFinished_iff, hasContinue_packHeader]
  exact and_iff_right hne

theorem exec_block_of_dynamic {s : State} {f n : BitVec 4} {c : BitVec 3} {l : BitVec 13}
    (h : s.Reads (.block f n c l)) (he : 0 ≤ s.parser.eventIndex) (hl : s.parser.stackF.left ≠ 0)
    (hp : s.parser.phase = .dynamicPhase) (hb : s.parser.blockF.left = 0) : exec (.block f n c l) s =
      .next (s.afterWord
        (s.parser.clearRaised.openBlock (packHeader 0xF5#8 f (n ++ c) l)).settle.unitProgress) := by
  obtain ⟨w, hw, hn, hexec⟩ := h.step rfl
  cases hw
  rw [hexec, step_of_frame hn he hl,
    Parser.frameStep_blockHeader (P := s.parser.clearRaised) hp hb he (typeOf_packHeader ..)]

/-- Settles O33. -/
theorem onlyBlockHeadersOpenBlocks : Obligations.OnlyBlockHeadersOpenBlocks := by
  intro s f n c l hp he hl hph hb P opened
  have hopened : s.parser.clearRaised.openBlock (packHeader 0xF5#8 f (n ++ c) l) = opened := by
    rw [Parser.openBlock, lengthOf_packHeader]
    rfl
  have hblock (h : s.Reads (.block f n c l)) :
      exec (.block f n c l) s = .next (s.afterWord opened.settle.unitProgress) := by
    rw [exec_block_of_dynamic h he hl hph hb, hopened]
  have herror {w : Word} (hn : s.parser.nextWord = some (.frame, w)) (ht : typeOf w ≠ 0xF5#8) :
      step s = .next (s.afterWord (P.afterError .unexpectedFrameType).unitProgress) := by
    rw [step_of_frame hn he hl, Parser.frameStep_other (P := s.parser.clearRaised) hph hb ht]
    rfl
  refine ⟨fun h hopen => ?opens, fun h hl0 hcont mod hmod hsuf => ?ends, fun ib it i hi h => ?frame,
    fun w hn hk => ?other⟩
  case opens =>
    have hnot : ¬ blockFinished opened.blockF = true := by
      rw [blockFinished_packHeader]
      rintro ⟨h0, hc⟩
      rcases hopen with h | h
      · exact h h0
      · rw [h] at hc; cases hc
    rw [hblock h, Parser.settle_dynamic (T := opened) hph hnot]
  case ends =>
    have hover : blockFinished opened.blockF = true := (blockFinished_packHeader ..).mpr ⟨hl0, hcont⟩
    refine ⟨opened.leaveDynamic, ?_, rfl, fun m => Parser.span_leaveDynamic opened m⟩
    rw [hblock h, Parser.settle_dynamic_suffix (T := opened) hmod hph hover hsuf]
  case frame =>
    obtain ⟨-, ⟨-, hsuper, -, -⟩, -, herr, -, -⟩ := legal_types hp
    have hframe {i : Instr} {t : BitVec 8} (h : s.Reads i) (hpos : positionOf i = .frame)
        (henc : ∃ w, encode s.params i = some w ∧ typeOf w = t) (ht : t ≠ 0xF5#8) :
        exec i s = .next (s.afterWord (P.afterError .unexpectedFrameType).unitProgress) := by
      obtain ⟨w, hw, hnext, hexec⟩ := h.step hpos
      obtain ⟨w', hw', rfl⟩ := henc
      cases hw.symm.trans hw'
      rw [hexec, herror hnext ht]
    simp only [List.mem_cons, List.not_mem_nil, or_false] at hi
    rcases hi with rfl | rfl | rfl | rfl | rfl
    · exact hframe h rfl ⟨_, rfl, typeOf_packHeader ..⟩ (by decide)
    · exact hframe h rfl ⟨_, rfl, typeOf_packHeader ..⟩ (by decide)
    · exact hframe h rfl ⟨_, rfl, typeOf_packHeader ..⟩ hsuper
    · exact hframe h rfl ⟨_, rfl, typeOf_packHeader ..⟩ herr
    · exact hframe h rfl ⟨_, rfl, typeOf_packSysEventHeader ..⟩ (by decide)
  case other =>
    have hkind := frameKind_type s.params (typeOf w)
    rw [hk] at hkind
    obtain ⟨-, -, ht, -⟩ := hkind
    exact herror hn ht

/-! ## A completed module (R247, R257) -/

/-- Entering a module, or emitting the event, closes the block that was open (R246, R257). -/
theorem Parser.EntersFrom.with_blockF {R Q : Parser} {m : Nat} (h : R.EntersFrom m Q) (b : Cursor) :
    Parser.EntersFrom { R with blockF := b } m Q := h

/-- Settles O36. -/
theorem completedModulesGoOnOrEmit : Obligations.CompletedModulesGoOnOrEmit := by
  intro s mod he he' hl hmod m old b next taken
  have hindex : s.parser.eventIndex.toNat < 16 := by omega
  refine ⟨fun w sp hn hu hcases => ?data, fun f n c hp h hcont hph hb hsuf => ?header⟩
  case header =>
    have hover : blockFinished ⟨packHeader 0xF5#8 f (n ++ c) 0, lengthOf (packHeader 0xF5#8 f (n ++ c) 0)⟩ = true := by
      rw [lengthOf_packHeader]
      exact (blockFinished_packHeader ..).mpr ⟨rfl, hcont⟩
    let T := s.parser.clearRaised.openBlock (packHeader 0xF5#8 f (n ++ c) 0)
    refine ⟨{ T.leaveDynamic with blockF := b }, T.settle, exec_block_of_dynamic h he hl hph hb, rfl, fun j => ?_, ?_⟩
    · exact (Parser.span_leaveDynamic T j).trans (ite_congr rfl (fun h => by cases h; rfl) fun _ => rfl)
    · exact (Parser.entersFrom_dynamic (T := T) hmod hph hover hindex hsuf).with_blockF b
  case data =>
    rcases hcases with ⟨hp, hlast, hdyn, hsuf, rfl⟩ | ⟨hp, hleft, hhdr, hcont, hsuf, rfl⟩ | ⟨hp, hlast, rfl⟩
    case inl =>
      have hT := Parser.took_stored_prefix (P := s.parser.clearRaised) (w := w) (b := s.parser.blockF) hp
      have hsp := hT.span_current
      have henters := Parser.entersFrom_prefix (hT.currentModule.trans hmod) hp (hsp ▸ hlast) hdyn
        (hT.eventIndex ▸ hindex) (hsp ▸ hsuf)
      rw [hT.moduleIndex] at henters
      obtain ⟨hstate, hscratch, hspan⟩ := (hT.leavePrefix false).of_clearRaised rfl rfl
      exact ⟨_, _, step_of_data hn he hl hu (by rw [hp]; decide), hstate, hscratch, hspan, henters⟩
    case inr.inl =>
      have hT := Parser.took_stored_dynamic (P := s.parser.clearRaised) (w := w) (b := ⟨b.hdr, b.left - 1⟩) hp
      have hsp := hT.span_current
      have hover : blockFinished ⟨b.hdr, b.left - 1⟩ = true :=
        (blockFinished_iff _).mpr ⟨hhdr, by rw [hleft]; rfl, hcont⟩
      have henters := Parser.entersFrom_dynamic (hT.currentModule.trans hmod) hp hover (hT.eventIndex ▸ hindex)
        (hsp ▸ hsuf)
      rw [hT.moduleIndex] at henters
      obtain ⟨hstate, hscratch, hspan⟩ := hT.leaveDynamic.of_clearRaised (ph := .suffixPhase) rfl rfl
      have hstep := step_of_dynData hn he hl hu hp (by rw [show s.parser.blockF.left = 1 from hleft]; decide)
      generalize (s.parser.clearRaised.stored w ⟨b.hdr, b.left - 1⟩).leaveDynamic = R at *
      refine ⟨{ R with blockF := s.parser.blockF }, _, hstep, ?_, hscratch, hspan, henters.with_blockF _⟩
      exact congrArg (fun R : Parser => { R with blockF := s.parser.blockF }) hstate
    case inr.inr =>
      have hT := Parser.took_stored_suffix (P := s.parser.clearRaised) (w := w) (b := s.parser.blockF) hp
      have hsp := hT.span_current
      have henters := Parser.entersFrom_suffix (hT.currentModule.trans hmod) hp (hT.eventIndex ▸ hindex) (hsp ▸ hlast)
      rw [hT.moduleIndex] at henters
      obtain ⟨hstate, hscratch, hspan⟩ := hT.of_clearRaised hp rfl
      exact ⟨_, _, step_of_data hn he hl hu (by rw [hp]; decide), hstate, hscratch, hspan, henters⟩

/-! ## System events (R260 to R262) -/

section
variable {h : Word} {tl : List Word} (fuel i : Nat)

theorem scanChain_nil : scanChain (fuel + 1) [] i = .dropped i := rfl

theorem scanChain_other (ht : typeOf h ≠ 0xFA#8) : scanChain (fuel + 1) (h :: tl) i = .dropped i := by
  rw [scanChain, if_pos ht]

theorem scanChain_short (ht : typeOf h = 0xFA#8) (hl : tl.length < payloadWords h) :
    scanChain (fuel + 1) (h :: tl) i = .dropped (i + 1 + tl.length) := by
  rw [scanChain, if_neg (not_not.mpr ht), if_pos hl]

theorem scanChain_more {pay rest : List Word} (ht : typeOf h = 0xFA#8) (hl : pay.length = payloadWords h)
    (hc : hasContinue h = true) :
    scanChain (fuel + 1) (h :: (pay ++ rest)) i = scanChain fuel rest (i + 1 + pay.length) := by
  rw [scanChain, if_neg (not_not.mpr ht), if_neg (by rw [List.length_append]; omega), if_pos hc, ← hl, List.drop_left]

theorem scanChain_last {pay rest : List Word} (ht : typeOf h = 0xFA#8) (hl : pay.length = payloadWords h)
    (hc : hasContinue h = false) :
    scanChain (fuel + 1) (h :: (pay ++ rest)) i = .whole (i + 1 + pay.length) := by
  rw [scanChain, if_neg (not_not.mpr ht), if_neg (by rw [List.length_append]; omega), hc,
    if_neg Bool.false_ne_true, ← hl]

end

/-- The scan goes past the sections of an open chain (R261). -/
theorem scanChain_openChain {done : List Word} (hd : OpenChain done) (fuel : Nat) (rest : List Word) (i : Nat)
    (hf : (done ++ rest).length < fuel) :
    ∃ fuel', scanChain fuel (done ++ rest) i = scanChain (fuel' + 1) rest (i + done.length) := by
  induction hd generalizing fuel i with
  | nil =>
    obtain _ | fuel := fuel
    · omega
    · exact ⟨fuel, rfl⟩
  | more h pay tail ht hc hl _ ih =>
    obtain _ | fuel := fuel
    · omega
    simp only [List.cons_append, List.append_assoc, List.length_cons, List.length_append] at hf
    obtain ⟨fuel', heq⟩ := ih fuel (i + 1 + pay.length) (by rw [List.length_append]; omega)
    refine ⟨fuel', ?_⟩
    rw [List.cons_append, List.append_assoc, scanChain_more fuel i ht hl hc, heq]
    congr 1
    simp only [List.length_cons, List.length_append]
    omega

section
variable {done : List Word} (hd : OpenChain done)
include hd

/-- A chain whose last section has no Continue is whole (R261). -/
theorem scanChain_whole {h : Word} {pay rest : List Word} (ht : typeOf h = 0xFA#8) (hc : hasContinue h = false)
    (hl : pay.length = payloadWords h) : scanChain ((done ++ h :: (pay ++ rest)).length + 1) (done ++ h :: (pay ++ rest)) 0 =
      .whole (done ++ h :: pay).length := by
  obtain ⟨fuel, heq⟩ := scanChain_openChain hd _ (h :: (pay ++ rest)) 0 (Nat.lt_succ_self _)
  rw [heq, scanChain_last _ _ ht hl hc, List.length_append, List.length_cons]
  congr 1
  omega

/-- A chain broken by another word, or by the unit's end, is given up before it (R262). -/
theorem scanChain_broken {rest : List Word} (hr : ∀ x ∈ rest.head?, typeOf x ≠ 0xFA#8) :
    scanChain ((done ++ rest).length + 1) (done ++ rest) 0 = .dropped done.length := by
  obtain ⟨fuel, heq⟩ := scanChain_openChain hd _ rest 0 (Nat.lt_succ_self _)
  rw [heq, Nat.zero_add]
  cases rest with
  | nil => exact scanChain_nil _ _
  | cons h tl => exact scanChain_other _ _ (hr h rfl)

/-- A chain whose last section does not fit the unit is given up with it (R262). -/
theorem scanChain_cut {h : Word} {rest : List Word} (ht : typeOf h = 0xFA#8) (hl : rest.length < payloadWords h) :
    scanChain ((done ++ h :: rest).length + 1) (done ++ h :: rest) 0 = .dropped (done ++ h :: rest).length := by
  obtain ⟨fuel, heq⟩ := scanChain_openChain hd _ (h :: rest) 0 (Nat.lt_succ_self _)
  rw [heq, scanChain_short _ _ ht hl, List.length_append, List.length_cons]
  congr 1
  omega

end

/-- A SystemEvent header in Idle or between stack frames starts the scan of its chain (R260). -/
theorem step_of_sysEvent {s : State} {w : Word} (hp : s.params.legal = true)
    (h : s.parser.nextWord = some (.frame, w)) (ht : typeOf w = 0xFA#8)
    (hpos : s.parser.eventIndex < 0 ∨ s.parser.stackF.left = 0) :
    step s = .next (s.afterWord (s.parser.clearRaised.sysEventChain w).unitProgress) := by
  by_cases he : s.parser.eventIndex < 0
  · rw [step_of_idle h he, Parser.idleStep, ht, frameKind_sysEvent hp]
  · rw [step_of_await h (not_lt.mp he) (hpos.resolve_left he), Parser.awaitStep, if_pos ht]

section
variable {P : Parser} {w : Word} {n : Nat} (h : P.call.unit[P.call.rp]? = some w)
include h

theorem Parser.sysEventChain_whole (hs : scanChain (P.ahead.length + 1) P.ahead 0 = .whole n) : P.sysEventChain w =
    { P with
      emitted := P.emitted ++ [.systemEvent (P.ahead.take n)]
      call := { P.call with rp := P.call.rp + n, unitTook := true } } := by
  have hcons : w :: P.ahead.drop 1 = P.ahead := by rw [P.ahead_eq_cons w h]; rfl
  simp only [Parser.sysEventChain, hcons, hs]
  rfl

theorem Parser.sysEventChain_dropped (hs : scanChain (P.ahead.length + 1) P.ahead 0 = .dropped n) :
    P.sysEventChain w = (P.afterUnused n).afterError .systemEventDropped := by
  have hcons : w :: P.ahead.drop 1 = P.ahead := by rw [P.ahead_eq_cons w h]; rfl
  simp only [Parser.sysEventChain, hcons, hs]
  rfl

end

/-- Settles O37. -/
theorem systemEventChainsAreEmittedOrDropped : Obligations.SystemEventChainsAreEmittedOrDropped := by
  intro s ib k it l done hp hreads hpos hd P ahead
  have hstep : ∃ w, s.parser.clearRaised.call.unit[s.parser.clearRaised.call.rp]? = some w ∧
      exec (.sysev ib k it l) s = .next (s.afterWord (s.parser.clearRaised.sysEventChain w).unitProgress) := by
    obtain ⟨w, hw, hn, hexec⟩ := hreads.step rfl
    cases hw
    exact ⟨_, Parser.getElem?_of_nextWord hn,
      hexec.trans (step_of_sysEvent hp hn (typeOf_packSysEventHeader ..) hpos)⟩
  obtain ⟨w, hw, hexec⟩ := hstep
  have hahead : s.parser.clearRaised.ahead = ahead := rfl
  rw [hexec]
  refine ⟨fun h pay rest ha ht hc hl => ?whole, fun rest ha _ hr => ?broken, fun h rest ha ht hl => ?cut⟩
  case whole =>
    have htake : (done ++ h :: (pay ++ rest)).take (done ++ h :: pay).length = done ++ h :: pay := by
      rw [show done ++ h :: (pay ++ rest) = (done ++ h :: pay) ++ rest by simp, List.take_left]
    rw [Parser.sysEventChain_whole hw (by rw [hahead, ha, scanChain_whole hd ht hc hl]), hahead, ha, htake]
    rfl
  case broken =>
    rw [Parser.sysEventChain_dropped hw (by rw [hahead, ha, scanChain_broken hd hr])]
    rfl
  case cut =>
    rw [Parser.sysEventChain_dropped hw (by rw [hahead, ha, scanChain_cut hd ht hl]), ha]
    rfl

end Sys2Proof.Machine

/-! # The parser's invariant through an iteration of the loop (O54, O55, O58) -/

namespace Sys2Proof.Machine

/-! ## The invariant without the call -/

/-- What holds of the parser's registers between two words, whatever the call does. -/
structure Parser.Core (p : Params) (P : Parser) : Prop where
  table : ReadoutStructure.legal p P.rs = true
  idle : P.eventIndex < 0 → P.IdleRegisters
  event : 0 ≤ P.eventIndex → P.EventRegisters ∧ P.Layout
  scratch : P.ScratchInUse p
  canonical : P.Canonical

theorem Parser.inv_iff {p : Params} {P : Parser} : P.Inv p ↔ P.Core p ∧ P.CallInv :=
  ⟨fun h => ⟨⟨h.table, h.idle, h.event, h.scratch, h.canonical⟩, h.call⟩,
    fun ⟨h, hc⟩ => ⟨h.table, h.idle, h.event, h.scratch, h.canonical, hc⟩⟩

/-- Where a module starts depends only on the spans before it (R266). -/
theorem Parser.moduleStart_congr {P Q : Parser} {m : Nat}
    (h : ∀ j, j < m → (Q.span j).total = (P.span j).total) : Q.moduleStart m = P.moduleStart m := by
  induction m with
  | zero => rfl
  | succ m ih => rw [Parser.moduleStart, Parser.moduleStart, ih fun j hj => h j (by omega), h m (by omega)]

/-- `Q` has the same event registers as `P`; only counters, the call, the trackers and the emissions differ. -/
structure Parser.SameEvent (P Q : Parser) : Prop where
  eq : Q = { P with
    session := Q.session, lastBufferNumber := Q.lastBufferNumber, bufSeqValid := Q.bufSeqValid
    lastPacketNumber := Q.lastPacketNumber, pktSeqValid := Q.pktSeqValid
    counters := Q.counters, call := Q.call, emitted := Q.emitted }
  stats : Q.counters.moduleStats = P.counters.moduleStats

section
variable {p : Params} {P Q : Parser}

theorem Parser.Layout.of_sameEvent (h : P.Layout) (hs : P.SameEvent Q) : Q.Layout := by
  have hspan : Q.span = P.span := by rw [hs.eq]; rfl
  have hstart (m : Nat) : Q.moduleStart m = P.moduleStart m := Parser.moduleStart_congr fun j _ => by rw [hspan]
  have hidx : Q.moduleIndex = P.moduleIndex := by rw [hs.eq]
  have hmods : Q.modules = P.modules := by rw [hs.eq]; rfl
  have hcur : Q.currentModule = P.currentModule := by rw [hs.eq]; rfl
  have hlay (mod : ModuleShape) : P.currentLayout mod → Q.currentLayout mod := by rw [hs.eq]; exact id
  have hused : Q.used = P.used := by rw [hs.eq]
  refine ⟨?_, ?_, ?_, ?_⟩
  · rw [hidx, hmods, hspan]; exact h.before
  · rw [hidx, hspan]; exact fun m hm => (h.starts m hm).trans (hstart m).symm
  · rw [hcur]; exact fun mod hmod => hlay mod (h.current mod hmod)
  · rw [hidx, hstart, hused]; exact h.used

theorem Parser.Core.of_sameEvent (h : P.Core p) (hs : P.SameEvent Q) : Q.Core p := by
  have hidle : P.IdleRegisters → Q.IdleRegisters := by
    rw [hs.eq]; exact fun hi => ⟨hi.1, hi.2, hi.3, hi.4, hi.5, hi.6, hi.7, hi.8⟩
  have hevent : P.EventRegisters → Q.EventRegisters := by
    rw [hs.eq]; exact fun he => ⟨he.1, he.2, he.3, he.4, he.5, he.6⟩
  have hindex : Q.eventIndex = P.eventIndex := by rw [hs.eq]
  refine ⟨?_, fun hi => hidle (h.idle (hindex ▸ hi)), fun he => ?_, ?_, ?_⟩
  · rw [hs.eq]; exact h.table
  · obtain ⟨hregs, hlay⟩ := h.event (hindex ▸ he)
    exact ⟨hevent hregs, hlay.of_sameEvent hs⟩
  · rw [hs.eq]; exact ⟨h.scratch.addresses, h.scratch.capacity⟩
  · obtain ⟨hmem, hspans, hstats⟩ := h.canonical
    refine ⟨?_, ?_, hs.stats ▸ hstats⟩
    · rw [hs.eq]; exact hmem
    · rw [hs.eq]; exact hspans

/-- Idle, whatever the counters and the call (R32). -/
theorem Parser.Core.of_idle (ht : ReadoutStructure.legal p Q.rs = true) (hi : Q.IdleRegisters)
    (hstats : Sparse.wf ModuleStats.zero Q.counters.moduleStats) : Q.Core p := by
  refine ⟨ht, fun _ => hi, fun he => ?_, ⟨?_, ?_⟩, ?_, ?_, hstats⟩
  · rw [hi.eventIndex] at he; exact absurd he (by decide)
  · rw [hi.scratch, hi.used]; rfl
  · rw [hi.used]; exact Nat.zero_le _
  · rw [hi.scratch]; exact Memory.wf_empty
  · rw [hi.spans]; exact Sparse.wf_nil _

end

/-! ## What an operation may do -/

/-- From a parser in which the invariant holds to another one: it holds there too, what is emitted matches the table,
and the outcomes that no rule can raise are not counted. -/
structure Parser.Sound (p : Params) (P Q : Parser) : Prop where
  core : Q.Core p
  session : Q.session = P.session
  rs : Q.rs = P.rs
  emitted : ∃ es, Q.emitted = P.emitted ++ es ∧ ∀ e ∈ es, e.Matches P.rs
  notAdvancing : Q.counters.parseResults.bufferNotAdvancing = P.counters.parseResults.bufferNotAdvancing
  openBlock : Q.counters.parseResults.unexpectedOpenBlockOnNewEvent =
    P.counters.parseResults.unexpectedOpenBlockOnNewEvent

/-- The outcomes that a rule can raise (R242, R263). -/
def ParseOutcome.raisable : ParseOutcome → Bool
  | .bufferNotAdvancing => false
  | .unexpectedOpenBlockOnNewEvent => false
  | _ => true

theorem ParseResults.bump_raisable (r : ParseResults) {o : ParseOutcome} (h : o.raisable = true) :
    (r.bump o).bufferNotAdvancing = r.bufferNotAdvancing ∧
    (r.bump o).unexpectedOpenBlockOnNewEvent = r.unexpectedOpenBlockOnNewEvent := by
  cases o with
  | bufferNotAdvancing => cases h
  | unexpectedOpenBlockOnNewEvent => cases h
  | _ => exact ⟨rfl, rfl⟩

section
variable {p : Params} {P Q R : Parser}

theorem Parser.Sound.refl (h : P.Core p) : P.Sound p P := ⟨h, rfl, rfl, ⟨[], by simp, by simp⟩, rfl, rfl⟩

theorem Parser.Sound.trans (h : P.Sound p Q) (g : Q.Sound p R) : P.Sound p R := by
  obtain ⟨es, hes, hm⟩ := h.emitted
  obtain ⟨fs, hfs, hn⟩ := g.emitted
  refine ⟨g.core, g.session.trans h.session, g.rs.trans h.rs, ⟨es ++ fs, by rw [hfs, hes, List.append_assoc], ?_⟩,
    g.notAdvancing.trans h.notAdvancing, g.openBlock.trans h.openBlock⟩
  intro e he
  rcases List.mem_append.mp he with he | he
  · exact hm e he
  · exact h.rs ▸ hn e he

/-- One operation after another. -/
theorem Parser.Sound.and_then (h : P.Sound p Q) (g : Q.Core p → Q.Sound p R) : P.Sound p R := h.trans (g h.core)

/-- The emissions, the session and its table stay, and neither of the unreachable outcomes is counted. -/
structure Parser.Quiet (P Q : Parser) : Prop where
  session : Q.session = P.session
  rs : Q.rs = P.rs
  emitted : Q.emitted = P.emitted
  notAdvancing : Q.counters.parseResults.bufferNotAdvancing = P.counters.parseResults.bufferNotAdvancing
  openBlock : Q.counters.parseResults.unexpectedOpenBlockOnNewEvent =
    P.counters.parseResults.unexpectedOpenBlockOnNewEvent

theorem Parser.Quiet.sound (hq : P.Quiet Q) (hc : Q.Core p) : P.Sound p Q :=
  ⟨hc, hq.session, hq.rs, ⟨[], by simp [hq.emitted], by simp⟩, hq.notAdvancing, hq.openBlock⟩

/-- After an operation that emits and counts nothing. -/
theorem Parser.Quiet.trans_sound (hq : P.Quiet Q) (g : Q.Sound p R) : P.Sound p R := by
  obtain ⟨es, hes, hm⟩ := g.emitted
  exact ⟨g.core, g.session.trans hq.session, g.rs.trans hq.rs, ⟨es, by rw [hes, hq.emitted], hq.rs ▸ hm⟩,
    g.notAdvancing.trans hq.notAdvancing, g.openBlock.trans hq.openBlock⟩

/-- Counting, and moving on in the unit. -/
theorem Parser.Core.sound_of_sameEvent (h : P.Core p) (hs : P.SameEvent Q) (hq : P.Quiet Q) : P.Sound p Q :=
  hq.sound (h.of_sameEvent hs)

/-- Going back to Idle. -/
theorem Parser.Core.sound_of_idle (h : P.Core p) (hi : Q.IdleRegisters)
    (hstats : Q.counters.moduleStats = P.counters.moduleStats) (hq : P.Quiet Q) : P.Sound p Q := by
  obtain ⟨-, -, hwf⟩ := h.canonical
  exact hq.sound (.of_idle (hq.rs ▸ h.table) hi (hstats ▸ hwf))

end

section
variable {p : Params} {P : Parser} (h : P.Core p)
include h

theorem Parser.Core.sound_clearRaised : P.Sound p P.clearRaised :=
  h.sound_of_sameEvent ⟨rfl, rfl⟩ ⟨rfl, rfl, rfl, rfl, rfl⟩

theorem Parser.Core.sound_advance (n : Nat) : P.Sound p (P.advance n) :=
  h.sound_of_sameEvent ⟨rfl, rfl⟩ ⟨rfl, rfl, rfl, rfl, rfl⟩

theorem Parser.Core.sound_markTook : P.Sound p P.markTook :=
  h.sound_of_sameEvent ⟨rfl, rfl⟩ ⟨rfl, rfl, rfl, rfl, rfl⟩

theorem Parser.Core.sound_addUnused (n : Nat) : P.Sound p (P.addUnused n) :=
  h.sound_of_sameEvent ⟨rfl, rfl⟩ ⟨rfl, rfl, rfl, rfl, rfl⟩

theorem Parser.Core.sound_afterUnused (n : Nat) : P.Sound p (P.afterUnused n) :=
  h.sound_of_sameEvent ⟨rfl, rfl⟩ ⟨rfl, rfl, rfl, rfl, rfl⟩

theorem Parser.Core.sound_markSkipped : P.Sound p P.markSkipped :=
  h.sound_of_sameEvent ⟨rfl, rfl⟩ ⟨rfl, rfl, rfl, rfl, rfl⟩

theorem Parser.Core.sound_bumpResult {o : ParseOutcome} (ho : o.raisable = true) : P.Sound p (P.bumpResult o) := by
  obtain ⟨hg, hb⟩ := P.counters.parseResults.bump_raisable ho
  exact h.sound_of_sameEvent ⟨rfl, rfl⟩ ⟨rfl, rfl, rfl, hg, hb⟩

theorem Parser.Core.sound_clearEventState : P.Sound p P.clearEventState :=
  h.sound_of_idle ⟨rfl, rfl, rfl, rfl, rfl, rfl, rfl, rfl⟩ rfl ⟨rfl, rfl, rfl, rfl, rfl⟩

theorem Parser.Core.sound_raise {o : ParseOutcome} (ho : o.raisable = true) : P.Sound p (P.raise o) := by
  obtain ⟨hg, hb⟩ := P.counters.parseResults.bump_raisable ho
  exact h.sound_of_idle ⟨rfl, rfl, rfl, rfl, rfl, rfl, rfl, rfl⟩ rfl ⟨rfl, rfl, rfl, hg, hb⟩

theorem Parser.Core.sound_exception : P.Sound p (P.fault .unhandledException) :=
  h.sound_of_idle ⟨rfl, rfl, rfl, rfl, rfl, rfl, rfl, rfl⟩ rfl ⟨rfl, rfl, rfl, rfl, rfl⟩

end

/-! ## Settling keeps the layout (R247, R266) -/

/-- The current module has not more than its phase needs. -/
def Parser.Within (P : Parser) (mod : ModuleShape) : Prop :=
  match P.phase with
  | .prefixPhase => (P.span P.moduleIndex.toNat).prefixSpan.size ≤ mod.prefixLen.toNat
  | .dynamicPhase => mod.hasDynamic = true
  | .suffixPhase => (P.span P.moduleIndex.toNat).suffixSpan.size ≤ mod.suffixLen.toNat

/-- An event in progress whose current module may be complete in its phase: what holds while `settle()` runs. -/
structure Parser.Unfinished (p : Params) (P : Parser) (mod : ModuleShape) : Prop where
  table : ReadoutStructure.legal p P.rs = true
  event : 0 ≤ P.eventIndex ∧ P.eventIndex < P.rs.length
  current : P.currentModule = some mod
  within : P.Within mod
  stackType : typeOf P.stackF.hdr = 0xF3#8 ∨ typeOf P.stackF.hdr = 0xF9#8
  stackNum : ((stackNumOf P.stackF.hdr).toNat : Int) = P.eventIndex + 1
  blockType : P.blockF = .closed ∨ typeOf P.blockF.hdr = 0xF5#8
  before : ∀ m, m < P.moduleIndex.toNat → ∀ shape, P.modules[m]? = some shape → (P.span m).completeFor shape
  starts : ∀ m, m ≤ P.moduleIndex.toNat → (P.span m).prefixSpan.off = P.moduleStart m
  layout : P.currentLayout mod
  used : P.used = P.moduleStart (P.moduleIndex.toNat + 1)
  scratch : P.ScratchInUse p
  canonical : P.Canonical

section
variable {p : Params} {P Q : Parser} {mod : ModuleShape}

theorem Parser.unsettled_of_not_done (h : P.Within mod) (hd : ¬ P.PhaseDone mod) : P.Unsettled mod := by
  unfold Parser.Within at h
  unfold Parser.PhaseDone at hd
  unfold Parser.Unsettled
  cases hp : P.phase <;> rw [hp] at h hd
  · exact lt_of_le_of_ne h hd
  · exact ⟨h, by simpa using hd⟩
  · exact lt_of_le_of_ne h hd

theorem Parser.Unfinished.core (h : P.Unfinished p mod) (hd : ¬ P.PhaseDone mod) : P.Core p := by
  obtain ⟨h0, hlt, -⟩ := Parser.currentModule_eq_some h.current
  refine ⟨h.table, fun hi => absurd h.event.1 (not_le.mpr hi), fun _ => ⟨?_, ?_⟩, h.scratch, h.canonical⟩
  · exact ⟨h.event, ⟨h0, hlt⟩, ⟨mod, h.current, Parser.unsettled_of_not_done h.within hd⟩, h.stackType, h.stackNum,
      h.blockType⟩
  · refine ⟨h.before, h.starts, fun mod' hm => ?_, h.used⟩
    cases h.current.symm.trans hm
    exact h.layout

theorem Parser.Core.unfinished (h : P.Core p) (he : 0 ≤ P.eventIndex) : ∃ mod, P.Unfinished p mod ∧ P.Unsettled mod := by
  obtain ⟨⟨hevent, -, ⟨mod, hcur, huns⟩, hst, hsn, hbt⟩, ⟨hbefore, hstarts, hlay, hused⟩⟩ := h.event he
  refine ⟨mod, ⟨h.table, hevent, hcur, ?_, hst, hsn, hbt, hbefore, hstarts, hlay mod hcur, hused, h.scratch,
    h.canonical⟩, huns⟩
  unfold Parser.Unsettled at huns
  unfold Parser.Within
  cases hp : P.phase <;> rw [hp] at huns
  · exact huns.le
  · exact huns.1
  · exact huns.le

/-- Only the sizes and the start of a module matter to the modules around it: `Q` is `P` with other offsets in the
current module, another phase and another block. -/
structure Parser.Reoffset (P Q : Parser) : Prop where
  eq : Q = { P with spans := Q.spans, phase := Q.phase, blockF := Q.blockF }
  sizes : (Q.span P.moduleIndex.toNat).prefixSpan = (P.span P.moduleIndex.toNat).prefixSpan ∧
    (Q.span P.moduleIndex.toNat).dynamicSpan.size = (P.span P.moduleIndex.toNat).dynamicSpan.size ∧
    (Q.span P.moduleIndex.toNat).suffixSpan.size = (P.span P.moduleIndex.toNat).suffixSpan.size
  others : ∀ j, j ≠ P.moduleIndex.toNat → Q.span j = P.span j
  wf : Sparse.wf Span.zero Q.spans

theorem Parser.Unfinished.reoffset (h : P.Unfinished p mod) (hr : P.Reoffset Q) (hw : Q.Within mod)
    (hl : Q.currentLayout mod) (hb : Q.blockF = .closed ∨ typeOf Q.blockF.hdr = 0xF5#8) : Q.Unfinished p mod := by
  obtain ⟨heq, ⟨hpre, hdyn, hsuf⟩, hothers, hwf⟩ := hr
  obtain ⟨hmem, -, hstats⟩ := h.canonical
  have hidx : Q.moduleIndex = P.moduleIndex := by rw [heq]
  have hmods : Q.modules = P.modules := by rw [heq]; rfl
  have hstart (m : Nat) : Q.moduleStart m = P.moduleStart m := by
    refine Parser.moduleStart_congr fun j _ => ?_
    by_cases hj : j = P.moduleIndex.toNat
    · rw [hj, Span.total, Span.total, hpre, hdyn, hsuf]
    · rw [hothers j hj]
  refine ⟨?_, ?_, ?_, hw, ?_, ?_, hb, ?_, ?_, hl, ?_, ⟨?_, ?_⟩, ?_, hwf, ?_⟩
  · rw [heq]; exact h.table
  · rw [heq]; exact h.event
  · rw [heq]; exact h.current
  · rw [heq]; exact h.stackType
  · rw [heq]; exact h.stackNum
  · rw [hidx, hmods]
    intro m hm
    rw [hothers m hm.ne]
    exact h.before m hm
  · rw [hidx]
    intro m hm
    rw [hstart]
    by_cases hj : m = P.moduleIndex.toNat
    · rw [hj, hpre]; exact h.starts _ (Nat.le_refl _)
    · rw [hothers m hj]; exact h.starts m hm
  · rw [hidx, hstart, ← h.used, heq]
  · rw [heq]; exact h.scratch.addresses
  · rw [heq]; exact h.scratch.capacity
  · rw [heq]; exact hmem
  · rw [heq]; exact hstats

theorem Parser.Canonical.wf_leavePrefix (h : P.Canonical) (d : Bool) : Sparse.wf Span.zero (P.leavePrefix d).spans := by
  obtain ⟨-, hwf, -⟩ := h
  cases d <;> exact Sparse.wf_set _ _ _ _ hwf

theorem Parser.reoffset_leavePrefix (h : P.Canonical) (d : Bool) : P.Reoffset (P.leavePrefix d) := by
  have hspan := Parser.span_leavePrefix P d
  refine ⟨Parser.leavePrefix_eq P d, ?_, fun j hj => by rw [hspan, if_neg hj], h.wf_leavePrefix d⟩
  rw [hspan, if_pos rfl]
  cases d <;> exact ⟨rfl, rfl, rfl⟩

theorem Parser.reoffset_leaveDynamic (h : P.Canonical) : P.Reoffset P.leaveDynamic := by
  obtain ⟨-, hwf, -⟩ := h
  have hspan := Parser.span_leaveDynamic P
  refine ⟨rfl, ?_, fun j hj => by rw [hspan, if_neg hj], Sparse.wf_set _ _ _ _ hwf⟩
  rw [hspan, if_pos rfl]
  exact ⟨rfl, rfl, rfl⟩

theorem Parser.currentLayout_prefix (hp : P.phase = .prefixPhase) : P.currentLayout mod ↔
    (P.span P.moduleIndex.toNat).prefixSpan.off + (P.span P.moduleIndex.toNat).prefixSpan.size = P.used ∧
    (P.span P.moduleIndex.toNat).dynamicSpan.size = 0 ∧ (P.span P.moduleIndex.toNat).suffixSpan.size = 0 := by
  unfold Parser.currentLayout
  rw [hp]

theorem Parser.currentLayout_dynamic (hp : P.phase = .dynamicPhase) : P.currentLayout mod ↔
    (P.span P.moduleIndex.toNat).prefixSpan.size = mod.prefixLen.toNat ∧
    (P.span P.moduleIndex.toNat).prefixSpan.off + (P.span P.moduleIndex.toNat).prefixSpan.size =
      (P.span P.moduleIndex.toNat).dynamicSpan.off ∧
    (P.span P.moduleIndex.toNat).dynamicSpan.off + (P.span P.moduleIndex.toNat).dynamicSpan.size = P.used ∧
    (P.span P.moduleIndex.toNat).suffixSpan.size = 0 := by
  unfold Parser.currentLayout
  rw [hp]

theorem Parser.currentLayout_suffix (hp : P.phase = .suffixPhase) : P.currentLayout mod ↔
    (P.span P.moduleIndex.toNat).prefixSpan.size = mod.prefixLen.toNat ∧
    (mod.hasDynamic = false → (P.span P.moduleIndex.toNat).dynamicSpan.size = 0) ∧
    (P.span P.moduleIndex.toNat).contiguous ∧
    (P.span P.moduleIndex.toNat).suffixSpan.off + (P.span P.moduleIndex.toNat).suffixSpan.size = P.used := by
  unfold Parser.currentLayout
  rw [hp]

theorem Parser.within_dynamic (hp : P.phase = .dynamicPhase) : P.Within mod ↔ mod.hasDynamic = true := by
  rw [Parser.Within, hp]

theorem Parser.within_suffix (hp : P.phase = .suffixPhase) :
    P.Within mod ↔ (P.span P.moduleIndex.toNat).suffixSpan.size ≤ mod.suffixLen.toNat := by
  rw [Parser.Within, hp]

theorem Parser.within_prefix (hp : P.phase = .prefixPhase) :
    P.Within mod ↔ (P.span P.moduleIndex.toNat).prefixSpan.size ≤ mod.prefixLen.toNat := by
  rw [Parser.Within, hp]

theorem Parser.Unfinished.leavePrefix (h : P.Unfinished p mod) (hp : P.phase = .prefixPhase) (hd : P.PhaseDone mod) :
    (P.leavePrefix mod.hasDynamic).Unfinished p mod := by
  have hspan := Parser.span_leavePrefix P mod.hasDynamic P.moduleIndex.toNat
  rw [if_pos rfl] at hspan
  have hidx := Parser.leavePrefix_moduleIndex P mod.hasDynamic
  have hused : (P.leavePrefix mod.hasDynamic).used = P.used := by rw [Parser.leavePrefix_eq]
  have hsize := (Parser.phaseDone_prefix hp).mp hd
  obtain ⟨hoff, hdyn, hsuf⟩ := (Parser.currentLayout_prefix hp).mp h.layout
  refine h.reoffset (Parser.reoffset_leavePrefix h.canonical _) ?_ ?_ ?_
  · cases hb : mod.hasDynamic
    · rw [Parser.within_suffix (by rw [Parser.leavePrefix_phase]; rfl), ← hb, hidx, hspan, hb]
      exact hsuf ▸ Nat.zero_le _
    · rw [Parser.within_dynamic (by rw [Parser.leavePrefix_phase]; rfl)]
      exact hb
  · cases hb : mod.hasDynamic
    · rw [Parser.currentLayout_suffix (by rw [Parser.leavePrefix_phase]; rfl), ← hb, hidx, hspan, hused, hb]
      exact ⟨hsize, fun _ => hdyn, ⟨hoff, by simp [hdyn]⟩, by simp [hsuf]⟩
    · rw [Parser.currentLayout_dynamic (by rw [Parser.leavePrefix_phase]; rfl), ← hb, hidx, hspan, hused, hb]
      exact ⟨hsize, hoff, by simp [hdyn], hsuf⟩
  · cases mod.hasDynamic
    · exact h.blockType
    · exact .inl rfl

theorem Parser.Unfinished.leaveDynamic (h : P.Unfinished p mod) (hp : P.phase = .dynamicPhase) :
    P.leaveDynamic.Unfinished p mod := by
  have hspan := Parser.span_leaveDynamic P P.moduleIndex.toNat
  rw [if_pos rfl] at hspan
  have hdyn := (Parser.within_dynamic hp).mp h.within
  obtain ⟨hsize, hoff, hdynoff, hsuf⟩ := (Parser.currentLayout_dynamic hp).mp h.layout
  have hidx : P.leaveDynamic.moduleIndex = P.moduleIndex := rfl
  have hused : P.leaveDynamic.used = P.used := rfl
  refine h.reoffset (Parser.reoffset_leaveDynamic h.canonical) ?_ ?_ h.blockType
  · rw [Parser.within_suffix rfl, hidx, hspan]
    exact hsuf ▸ Nat.zero_le _
  · rw [Parser.currentLayout_suffix rfl, hidx, hspan, hused]
    exact ⟨hsize, fun hf => absurd (hdyn.symm.trans hf) (by decide), ⟨hoff, hdynoff⟩, by simp [hsuf]⟩

end

/-! ## Going from one module to the next (R246, R257) -/

/-- The modules before `k` are complete, and module `k` is next (R266). -/
structure Parser.Ready (p : Params) (R : Parser) (k : Nat) : Prop where
  table : ReadoutStructure.legal p R.rs = true
  event : 0 ≤ R.eventIndex ∧ R.eventIndex < R.rs.length
  stackType : typeOf R.stackF.hdr = 0xF3#8 ∨ typeOf R.stackF.hdr = 0xF9#8
  stackNum : ((stackNumOf R.stackF.hdr).toNat : Int) = R.eventIndex + 1
  before : ∀ m, m < k → ∀ shape, R.modules[m]? = some shape → (R.span m).completeFor shape
  starts : ∀ m, m < k → (R.span m).prefixSpan.off = R.moduleStart m
  used : R.used = R.moduleStart k
  scratch : R.ScratchInUse p
  canonical : R.Canonical

section
variable {p : Params} {P Q R : Parser} {mod : ModuleShape} {k : Nat}

theorem Parser.Ready.entered (h : R.Ready p k) (hmod : R.modules[k]? = some mod) : (R.entered k).Unfinished p mod := by
  obtain ⟨hmem, hwf, hstats⟩ := h.canonical
  have hspan (j : Nat) (hj : j < k) : (R.entered k).span j = R.span j := by
    rw [Parser.span_entered, if_neg (by omega)]
  have hself : (R.entered k).span k = R.emptySpan := by rw [Parser.span_entered, if_pos rfl]
  have hstart {m : Nat} (hm : m ≤ k) : (R.entered k).moduleStart m = R.moduleStart m :=
    Parser.moduleStart_congr fun j hj => by rw [hspan j (by omega)]
  have hidx : (R.entered k).moduleIndex.toNat = k := Int.toNat_natCast k
  refine ⟨h.table, h.event, Parser.currentModule_entered hmod, ?within, h.stackType, h.stackNum, .inl rfl, ?before,
    ?starts, ?layout, ?used, ⟨h.scratch.addresses, h.scratch.capacity⟩, ⟨hmem, Sparse.wf_set _ _ _ _ hwf, hstats⟩⟩
  case within =>
    rw [Parser.within_prefix rfl, hidx, hself]
    exact Nat.zero_le _
  case before =>
    rw [hidx]
    intro m hm
    rw [hspan m hm]
    exact h.before m hm
  case starts =>
    rw [hidx]
    intro m hm
    rw [hstart hm]
    rcases hm.lt_or_eq with hlt | rfl
    · rw [hspan m hlt]; exact h.starts m hlt
    · rw [hself]; exact h.used
  case layout =>
    rw [Parser.currentLayout_prefix rfl, hidx, hself]
    exact ⟨rfl, rfl, rfl⟩
  case used =>
    rw [hidx, Parser.moduleStart, hstart (Nat.le_refl k), hself]
    exact h.used

/-- A module complete in Suffix is complete (R266). -/
theorem Parser.Unfinished.ready (h : P.Unfinished p mod) (hp : P.phase = .suffixPhase) (hd : P.PhaseDone mod) :
    P.Ready p (P.moduleIndex.toNat + 1) := by
  obtain ⟨-, -, hcur⟩ := Parser.currentModule_eq_some h.current
  obtain ⟨hsize, hdyn, hcont, -⟩ := (Parser.currentLayout_suffix hp).mp h.layout
  refine ⟨h.table, h.event, h.stackType, h.stackNum, fun m hm shape hs => ?_,
    fun m hm => h.starts m (Nat.le_of_lt_succ hm), h.used, h.scratch, h.canonical⟩
  rcases (Nat.le_of_lt_succ hm).lt_or_eq with hlt | rfl
  · exact h.before m hlt shape hs
  · cases hcur.symm.trans hs
    exact ⟨hsize, (Parser.phaseDone_suffix hp).mp hd, hdyn, hcont⟩

theorem ParserCounters.wf_recordModules {c : ParserCounters} (h : Sparse.wf ModuleStats.zero c.moduleStats)
    (e m : Nat) (ds : List ModuleData) : Sparse.wf ModuleStats.zero (c.recordModules e m ds).moduleStats := by
  induction ds generalizing c m with
  | nil => exact h
  | cons d ds ih => exact ih (Sparse.wf_set _ _ _ _ h) (m + 1)

/-- The data of a complete module match its shape (R258, R266). -/
theorem Parser.eventModules_match (h : ∀ m, ∀ shape, R.modules[m]? = some shape → (R.span m).completeFor shape) :
    List.Forall₂ (fun (d : ModuleData) (shape : ModuleShape) =>
      d.prefixSize = shape.prefixLen.toNat ∧ d.suffixSize = shape.suffixLen.toNat ∧
      (shape.hasDynamic = false → d.dynamicSize = 0) ∧
      d.size = d.prefixSize + d.dynamicSize + d.suffixSize ∧ d.data.length = d.size) R.eventModules R.modules := by
  rw [List.forall₂_iff_get]
  refine ⟨R.length_eventModules, fun i hi hi' => ?_⟩
  obtain ⟨-, hd⟩ := R.eventModules_getElem? (List.getElem?_eq_getElem hi)
  obtain ⟨hpre, hsuf, hdyn, -⟩ := h i _ (List.getElem?_eq_getElem hi')
  simp only [List.get_eq_getElem, hd]
  exact ⟨hpre, hsuf, hdyn, rfl, Memory.length_read ..⟩

/-- The row of the event in progress (R22). -/
theorem Parser.getElem?_row (h : 0 ≤ R.eventIndex ∧ R.eventIndex < R.rs.length) :
    R.rs[R.eventIndex.toNat]? = some R.modules := by
  have hlt : R.eventIndex.toNat < R.rs.length := by omega
  rw [Parser.modules, ReadoutStructure.row, if_neg (by omega), List.getD_eq_getElem?_getD,
    List.getElem?_eq_getElem hlt, Option.getD_some]

theorem Parser.Ready.sound_complete (h : R.Ready p R.modules.length) : R.Sound p R.completeEvent := by
  obtain ⟨-, -, hstats⟩ := h.canonical
  obtain ⟨-, -, -, -, -, hres⟩ :=
    ParserCounters.recordModules_others R.eventIndex.toNat R.counters 0 R.eventModules
  have hcounters : R.completeEvent.counters = R.counters.recordModules R.eventIndex.toNat 0 R.eventModules := rfl
  refine ⟨.of_idle h.table ⟨rfl, rfl, rfl, rfl, rfl, rfl, rfl, rfl⟩ ?_, rfl, rfl,
    ⟨[.eventData R.eventIndex R.eventModules], rfl, fun e he => ?_⟩, ?_, ?_⟩
  · rw [hcounters]; exact ParserCounters.wf_recordModules hstats _ _ _
  · cases List.mem_singleton.mp he
    refine ⟨h.event.1, R.modules, Parser.getElem?_row h.event, Parser.eventModules_match fun m shape hm => ?_⟩
    obtain ⟨hlt, -⟩ := List.getElem?_eq_some_iff.mp hm
    exact h.before m hlt shape hm
  · rw [hcounters, hres]
  · rw [hcounters, hres]

/-- Settling an event keeps the invariant, and what it emits matches the table (R247, R257, R266). -/
theorem Settles.sound (hs : Settles P Q) (h : P.Unfinished p mod) : P.Sound p Q := by
  have same {P : Parser} {mod mod' : ModuleShape} (h : P.Unfinished p mod) (hm : P.currentModule = some mod') :
      mod' = mod := Option.some.inj (hm.symm.trans h.current)
  induction hs generalizing mod with
  | stop hm hd => exact .refl (h.core (same h hm ▸ hd))
  | @fromPrefix P Q mod' hm hp hd _ ih =>
    cases same h hm
    have hq : P.Quiet (P.leavePrefix mod'.hasDynamic) := by
      cases mod'.hasDynamic <;> exact ⟨rfl, rfl, rfl, rfl, rfl⟩
    exact hq.trans_sound (ih (h.leavePrefix hp hd))
  | @fromDynamic P Q mod' hm hp _ _ ih =>
    have hq : P.Quiet P.leaveDynamic := ⟨rfl, rfl, rfl, rfl, rfl⟩
    exact hq.trans_sound (ih (h.leaveDynamic hp))
  | @nextModule P Q mod' hm hp hd hlt _ ih =>
    cases same h hm
    obtain ⟨h0, -, -⟩ := Parser.currentModule_eq_some hm
    have hcast : (P.moduleIndex + 1).toNat = P.moduleIndex.toNat + 1 := by omega
    obtain ⟨shape, hget⟩ : ∃ shape, P.modules[P.moduleIndex.toNat + 1]? = some shape :=
      ⟨_, List.getElem?_eq_getElem (by omega)⟩
    have hent := (h.ready hp hd).entered hget
    rw [Parser.entered, show ((P.moduleIndex.toNat + 1 : Nat) : Int) = P.moduleIndex + 1 by omega, ← hcast] at hent
    have hq : P.Quiet (Parser.enterModule (P.moduleIndex + 1).toNat { P with moduleIndex := P.moduleIndex + 1 }) :=
      ⟨rfl, rfl, rfl, rfl, rfl⟩
    exact hq.trans_sound (ih hent)
  | @complete P mod' hm hp hd hlast =>
    cases same h hm
    obtain ⟨h0, -, -⟩ := Parser.currentModule_eq_some hm
    have hready := h.ready hp hd
    rw [show P.moduleIndex.toNat + 1 = P.modules.length by omega] at hready
    exact hready.sound_complete

end

/-! ## A word of a stack frame (R248 to R254) -/

section
variable {p : Params} {P : Parser} {mod : ModuleShape} {w : Word}

theorem Span.total_grow (ph : Phase) (sp : Span) : (sp.grow ph).total = sp.total + 1 := by
  cases ph <;> simp only [Span.grow, Span.total] <;> omega

theorem Span.off_grow (ph : Phase) (sp : Span) : (sp.grow ph).prefixSpan.off = sp.prefixSpan.off := by
  cases ph <;> rfl

/-- The scratch buffer grows at its end (R73, R252). -/
theorem Parser.addresses_write (h : P.scratch.map Prod.fst = List.range P.used) (w : Word) :
    (Memory.write P.scratch P.used w).map Prod.fst = List.range (P.used + 1) := by
  have hlt : ∀ e ∈ P.scratch, e.1 < P.used := fun e he =>
    List.mem_range.mp (h ▸ List.mem_map_of_mem he)
  rw [Memory.write, Sparse.put_append_last _ _ _ hlt, List.map_append, h, List.range_succ]
  rfl

/-- The current module needs one more word in its phase, which grows there. -/
theorem Parser.within_stored (h : P.Unsettled mod) (b : Cursor) : (P.stored w b).Within mod := by
  have hspan := Parser.span_stored (P := P) (w := w) (b := b) P.moduleIndex.toNat
  rw [if_pos rfl] at hspan
  have hidx : (P.stored w b).moduleIndex = P.moduleIndex := rfl
  unfold Parser.Unsettled at h
  cases hp : P.phase <;> rw [hp] at h hspan
  · rw [Parser.within_prefix (P := P.stored w b) hp, hidx, hspan]; exact h
  · rw [Parser.within_dynamic (P := P.stored w b) hp]; exact h.1
  · rw [Parser.within_suffix (P := P.stored w b) hp, hidx, hspan]; exact h

theorem Parser.currentLayout_stored (h : P.currentLayout mod) (b : Cursor) : (P.stored w b).currentLayout mod := by
  have hspan := Parser.span_stored (P := P) (w := w) (b := b) P.moduleIndex.toNat
  rw [if_pos rfl] at hspan
  have hidx : (P.stored w b).moduleIndex = P.moduleIndex := rfl
  have hused : (P.stored w b).used = P.used + 1 := rfl
  cases hp : P.phase <;> rw [hp] at hspan
  · obtain ⟨hoff, hdyn, hsuf⟩ := (Parser.currentLayout_prefix hp).mp h
    rw [Parser.currentLayout_prefix (P := P.stored w b) hp, hidx, hspan, hused, ← hoff]
    exact ⟨rfl, hdyn, hsuf⟩
  · obtain ⟨hsize, hoff, hdyn, hsuf⟩ := (Parser.currentLayout_dynamic hp).mp h
    rw [Parser.currentLayout_dynamic (P := P.stored w b) hp, hidx, hspan, hused, ← hdyn]
    exact ⟨hsize, hoff, rfl, hsuf⟩
  · obtain ⟨hsize, hdyn, hcont, hsuf⟩ := (Parser.currentLayout_suffix hp).mp h
    rw [Parser.currentLayout_suffix (P := P.stored w b) hp, hidx, hspan, hused, ← hsuf]
    exact ⟨hsize, hdyn, hcont, rfl⟩

theorem Parser.Unfinished.stored (h : P.Unfinished p mod) (hu : P.Unsettled mod) (hroom : P.used < p.scratchWords)
    {b : Cursor} (hb : b = .closed ∨ typeOf b.hdr = 0xF5#8) : (P.stored w b).Unfinished p mod := by
  obtain ⟨hmem, hwf, hstats⟩ := h.canonical
  have hspan := Parser.span_stored (P := P) (w := w) (b := b)
  have hother (j : Nat) (hj : j < P.moduleIndex.toNat) : (P.stored w b).span j = P.span j := by
    rw [hspan, if_neg hj.ne]
  have hstart {m : Nat} (hm : m ≤ P.moduleIndex.toNat) : (P.stored w b).moduleStart m = P.moduleStart m :=
    Parser.moduleStart_congr fun j hj => by rw [hother j (by omega)]
  refine ⟨h.table, h.event, h.current, Parser.within_stored hu b, h.stackType, h.stackNum, hb, fun m hm => ?before,
    fun m hm => ?starts, Parser.currentLayout_stored h.layout b, ?used, ⟨Parser.addresses_write h.scratch.addresses w,
      hroom⟩, ⟨Memory.wf_write _ _ _ hmem, Sparse.wf_set _ _ _ _ hwf, hstats⟩⟩
  case before =>
    rw [hother m hm]
    exact h.before m hm
  case starts =>
    have hm' : m ≤ P.moduleIndex.toNat := hm
    rw [hstart hm']
    rcases hm'.lt_or_eq with hlt | rfl
    · rw [hother m hlt]; exact h.starts m hm'
    · rw [hspan, if_pos rfl, Span.off_grow]; exact h.starts _ hm'
  case used =>
    have hidx : (P.stored w b).moduleIndex = P.moduleIndex := rfl
    rw [hidx, Parser.moduleStart, hstart (Nat.le_refl _), hspan, if_pos rfl, Span.total_grow, ← Nat.add_assoc]
    exact congrArg (· + 1) h.used

/-- Other frame cursors of the same event (R26, R27). -/
theorem Parser.Unfinished.with_cursors (h : P.Unfinished p mod) {f b : Cursor} (c : CallState)
    (hf : typeOf f.hdr = 0xF3#8 ∨ typeOf f.hdr = 0xF9#8) (hn : ((stackNumOf f.hdr).toNat : Int) = P.eventIndex + 1)
    (hb : b = .closed ∨ typeOf b.hdr = 0xF5#8) :
    Parser.Unfinished p { P with stackF := f, blockF := b, call := c } mod := by
  have hstart (m : Nat) : Parser.moduleStart { P with stackF := f, blockF := b, call := c } m = P.moduleStart m :=
    Parser.moduleStart_congr fun _ _ => rfl
  refine ⟨h.table, h.event, h.current, h.within, hf, hn, hb, h.before, fun m hm => ?_, h.layout, ?_,
    ⟨h.scratch.addresses, h.scratch.capacity⟩, h.canonical⟩
  · rw [hstart]; exact h.starts m hm
  · rw [hstart]; exact h.used

theorem Parser.not_done_of_unsettled (h : P.Unsettled mod) : ¬ P.PhaseDone mod := by
  unfold Parser.Unsettled at h
  unfold Parser.PhaseDone
  cases hp : P.phase <;> rw [hp] at h
  · exact h.ne
  · rw [h.2]; exact Bool.false_ne_true
  · exact h.ne

theorem Parser.Unfinished.sound_settle (h : P.Unfinished p mod) : P.Sound p P.settle := by
  obtain ⟨h0, hlt, -⟩ := Parser.currentModule_eq_some h.current
  exact (settles_settle h0 hlt).sound h

section
variable (h : P.Core p) (he : 0 ≤ P.eventIndex)
include h he

theorem Parser.Core.sound_stored (hroom : P.used < p.scratchWords) {b : Cursor}
    (hb : b = .closed ∨ typeOf b.hdr = 0xF5#8) : P.Sound p (P.stored w b).settle := by
  obtain ⟨mod, hun, huns⟩ := h.unfinished he
  have hq : P.Quiet (P.stored w b) := ⟨rfl, rfl, rfl, rfl, rfl⟩
  exact hq.trans_sound (hun.stored huns hroom hb).sound_settle

theorem Parser.Core.sound_openBlock (ht : typeOf w = 0xF5#8) : P.Sound p (P.openBlock w).settle := by
  obtain ⟨mod, hun, huns⟩ := h.unfinished he
  have hq : P.Quiet (P.openBlock w) := ⟨rfl, rfl, rfl, rfl, rfl⟩
  exact hq.trans_sound (hun.with_cursors (f := ⟨P.stackF.hdr, P.stackF.left - 1⟩)
    (b := ⟨w, lengthOf w⟩) _ hun.stackType hun.stackNum (.inr ht)).sound_settle

/-- A word inside a stack frame (R248). -/
theorem Parser.Core.sound_frameStep : P.Sound p (P.frameStep p w) := by
  obtain ⟨-, -, -, -, -, hblock⟩ := (h.event he).1
  by_cases hdyn : P.phase = .dynamicPhase ∧ P.blockF.left = 0
  · obtain ⟨hp, hleft⟩ := hdyn
    by_cases ht : typeOf w = 0xF5#8
    · rw [Parser.frameStep_blockHeader hp hleft he ht]
      exact h.sound_openBlock he ht
    · rw [Parser.frameStep_other hp hleft ht, ← Parser.raise_eq_afterError]
      exact h.sound_raise rfl
  · by_cases hroom : P.used < p.scratchWords
    · by_cases hp : P.phase = .dynamicPhase
      · have hleft : P.blockF.left ≠ 0 := fun hl => hdyn ⟨hp, hl⟩
        rw [Parser.frameStep_dynData he hroom hp hleft]
        refine h.sound_stored he hroom (.inr (hblock.resolve_left fun hc => hleft ?_))
        rw [hc]; rfl
      · rw [Parser.frameStep_data he hroom hp]
        exact h.sound_stored he hroom hblock
    · rw [Parser.frameStep_full (not_lt.mp hroom) fun hp hl => hdyn ⟨hp, hl⟩]
      exact h.sound_exception

theorem Parser.Core.sound_continue (ht : typeOf w = 0xF9#8) (hn : stackNumOf w = stackNumOf P.stackF.hdr) :
    P.Sound p (Parser.advance 1 { P with stackF := ⟨w, lengthOf w⟩ }) := by
  obtain ⟨mod, hun, huns⟩ := h.unfinished he
  have hq : P.Quiet (Parser.advance 1 { P with stackF := ⟨w, lengthOf w⟩ }) := ⟨rfl, rfl, rfl, rfl, rfl⟩
  refine hq.sound (Parser.Unfinished.core (mod := mod) ?_ (Parser.not_done_of_unsettled huns))
  exact hun.with_cursors (f := ⟨w, lengthOf w⟩) _ (.inr ht) (hn ▸ hun.stackNum) hun.blockType

end
end

/-! ## A word outside a stack frame (R241 to R245, R254, R260) -/

section
variable {p : Params} {P : Parser} {w : Word} (h : P.Core p)
include h

theorem Parser.Core.sound_emit_systemEvent (ws : List Word) : P.Sound p (P.emit (.systemEvent ws)) := by
  refine ⟨h.of_sameEvent ⟨rfl, rfl⟩, rfl, rfl, ⟨[.systemEvent ws], rfl, fun e he => ?_⟩, rfl, rfl⟩
  cases List.mem_singleton.mp he
  trivial

theorem Parser.Core.sound_sysEventChain : P.Sound p (P.sysEventChain w) := by
  unfold Parser.sysEventChain
  dsimp only
  split
  · exact ((h.sound_emit_systemEvent _).and_then fun h => h.sound_markTook).and_then fun h => h.sound_advance _
  · exact (h.sound_afterUnused _).and_then fun h => h.sound_raise rfl

theorem Parser.Core.sound_skipWord : P.Sound p P.skipWord :=
  h.sound_markSkipped.and_then fun h => h.sound_afterUnused 1

theorem Parser.Core.sound_skipFrame : P.Sound p (P.skipFrame w) :=
  h.sound_markSkipped.and_then fun h => h.sound_afterUnused _

theorem Parser.Core.sound_rejectStackFrame {o : ParseOutcome} (ho : o.raisable = true) :
    P.Sound p (P.rejectStackFrame o) :=
  (h.sound_addUnused 1).and_then fun h => h.sound_raise ho

section
variable (hi : P.eventIndex < 0)
include hi

theorem Parser.Core.sound_startEvent {ev : Int} (hev : 0 ≤ ev) (hlt : ev < P.rs.length)
    (hrow : ReadoutStructure.row P.rs ev ≠ []) (ht : typeOf w = 0xF3#8)
    (hn : ((stackNumOf w).toNat : Int) = ev + 1) : P.Sound p (P.startEvent ev w) := by
  obtain ⟨-, -, -, -, -, -, -, hscratch⟩ := h.idle hi
  obtain ⟨-, -, hstats⟩ := h.canonical
  rw [Parser.startEvent_eq]
  let R : Parser := { P with
    eventIndex := ev, moduleIndex := 0, phase := .prefixPhase, stackF := ⟨w, lengthOf w⟩, blockF := ⟨0, 0⟩
    used := 0, spans := [] }
  have hready : R.Ready p 0 := by
    refine ⟨h.table, ⟨hev, hlt⟩, .inl ht, hn, fun m hm => absurd hm (Nat.not_lt_zero m),
      fun m hm => absurd hm (Nat.not_lt_zero m), rfl, ⟨?_, Nat.zero_le _⟩, ?_, Sparse.wf_nil _, hstats⟩
    · exact congrArg (List.map Prod.fst) hscratch
    · rw [show R.scratch = P.scratch from rfl, hscratch]; exact Memory.wf_empty
  obtain ⟨shape, hshape⟩ : ∃ shape, R.modules[0]? = some shape :=
    ⟨_, List.getElem?_eq_getElem (List.length_pos_of_ne_nil hrow)⟩
  have hq : P.Quiet (R.entered 0) := ⟨rfl, rfl, rfl, rfl, rfl⟩
  exact hq.trans_sound (hready.entered hshape).sound_settle

theorem Parser.Core.sound_idleStackFrame (ht : typeOf w = 0xF3#8) : P.Sound p (P.idleStackFrame w) := by
  obtain ⟨-, -, -, -, hblock, -⟩ := h.idle hi
  have hq := (h.sound_advance 1).and_then fun h => h.sound_markTook
  unfold Parser.idleStackFrame
  dsimp only
  split
  · exact hq.and_then fun h => h.sound_bumpResult rfl
  · split
    · exact hq.and_then fun h => h.sound_rejectStackFrame rfl
    · rename_i hrange
      split
      · exact hq.and_then fun h => h.sound_rejectStackFrame rfl
      · rename_i hrow
        split
        · rename_i hleft
          exact absurd (congrArg Cursor.left hblock) hleft
        · obtain ⟨hlo, hhi⟩ := not_or.mp hrange
          refine hq.and_then (fun h => h.sound_startEvent hi (not_lt.mp hlo) (not_le.mp hhi) hrow ht ?_)
          rw [eventOfHeader]
          omega

/-- A word in Idle (R241). -/
theorem Parser.Core.sound_idleStep : P.Sound p (P.idleStep p w) := by
  have hk := frameKind_type p (typeOf w)
  unfold Parser.idleStep
  split <;> rename_i hkind <;> rw [hkind] at hk
  · exact h.sound_sysEventChain
  · exact h.sound_idleStackFrame hi hk
  · exact h.sound_skipFrame
  · exact h.sound_skipFrame
  · exact h.sound_skipWord
  · exact h.sound_skipWord
  · exact h.sound_skipWord

end

/-- A word between stack frames (R254). -/
theorem Parser.Core.sound_awaitStep (he : 0 ≤ P.eventIndex) : P.Sound p (P.awaitStep w) := by
  unfold Parser.awaitStep
  split
  · exact h.sound_sysEventChain
  · split
    · rename_i ht
      split
      · rename_i hn
        exact h.sound_continue he ht hn
      · exact h.sound_raise rfl
    · exact h.sound_raise rfl

/-- A word, wherever it stands (R240). -/
theorem Parser.Core.sound_dispatch : P.Sound p (P.dispatch p w) := by
  unfold Parser.dispatch
  split
  · rename_i hi
    exact h.sound_idleStep hi
  · rename_i he
    split
    · exact h.sound_awaitStep (not_lt.mp he)
    · exact h.sound_frameStep (not_lt.mp he)

theorem Parser.Core.sound_iteration (hw : P.call.unit[P.call.rp]? = some w) : P.Sound p (P.iteration p w) := by
  rw [P.iteration_eq_dispatch p w hw]
  exact h.sound_clearRaised.and_then fun h => h.sound_dispatch

/-! ## Units and calls (R180 to R190) -/

theorem Parser.Core.sound_openUnit (U : List Word) (n : Nat) : P.Sound p (P.openUnit U n) :=
  h.sound_of_sameEvent ⟨rfl, rfl⟩ ⟨rfl, rfl, rfl, rfl, rfl⟩

theorem Parser.Core.sound_atStage (g : CallStage) : P.Sound p (P.atStage g) :=
  h.sound_of_sameEvent ⟨rfl, rfl⟩ ⟨rfl, rfl, rfl, rfl, rfl⟩

theorem Parser.Core.sound_endCall : P.Sound p P.endCall :=
  h.sound_of_sameEvent ⟨rfl, rfl⟩ ⟨rfl, rfl, rfl, rfl, rfl⟩

theorem Parser.Core.sound_noteCallFirst (o : ParseOutcome) : P.Sound p (P.noteCallFirst o) :=
  h.sound_of_sameEvent ⟨rfl, rfl⟩ ⟨rfl, rfl, rfl, rfl, rfl⟩

theorem Parser.Core.sound_unitOutcome : P.Sound p P.unitOutcome := by
  unfold Parser.unitOutcome
  split
  · exact .refl h
  · split
    · exact (h.sound_noteCallFirst _).and_then fun h => h.sound_bumpResult rfl
    · split
      · exact h.sound_bumpResult rfl
      · exact h.sound_bumpResult rfl

theorem Parser.Core.sound_bufferSeqCheck (n : BitVec 32) : P.Sound p (P.bufferSeqCheck n) := by
  unfold Parser.bufferSeqCheck
  dsimp only
  split
  · exact h.sound_of_idle ⟨rfl, rfl, rfl, rfl, rfl, rfl, rfl, rfl⟩ rfl ⟨rfl, rfl, rfl, rfl, rfl⟩
  · exact h.sound_of_sameEvent ⟨rfl, rfl⟩ ⟨rfl, rfl, rfl, rfl, rfl⟩

theorem Parser.Core.sound_packetSeqCheck (n : BitVec 12) : P.Sound p (P.packetSeqCheck n) := by
  unfold Parser.packetSeqCheck
  dsimp only
  split
  · exact h.sound_of_idle ⟨rfl, rfl, rfl, rfl, rfl, rfl, rfl, rfl⟩ rfl ⟨rfl, rfl, rfl, rfl, rfl⟩
  · exact h.sound_of_sameEvent ⟨rfl, rfl⟩ ⟨rfl, rfl, rfl, rfl, rfl⟩

theorem Parser.Core.sound_enterCall (n : BitVec 32) (W : List Word) : P.Sound p (P.enterCall n W) := by
  have hq : P.Sound p (P.callBegin.addProcessed W.length) :=
    h.sound_of_sameEvent ⟨rfl, rfl⟩ ⟨rfl, rfl, rfl, rfl, rfl⟩
  exact hq.and_then fun h => h.sound_bufferSeqCheck n

theorem Parser.Core.sound_nextPacket (rest : List Word) : P.Sound p (P.nextPacket rest).1 := by
  unfold Parser.nextPacket
  split
  · exact .refl h
  · exact h.sound_addUnused 1
  · exact h.sound_atStage _

theorem Parser.Core.sound_unitProgress : P.Sound p P.unitProgress.1 := by
  unfold Parser.unitProgress
  split
  · exact .refl h
  · split
    · exact h.sound_unitOutcome
    · exact h.sound_unitOutcome.and_then fun h => h.sound_nextPacket _
    · exact .refl h
    · exact .refl h
    · exact .refl h

theorem Parser.Core.sound_endOfStream : P.Sound p P.endOfStream := by
  unfold Parser.endOfStream
  split
  · exact (h.sound_bumpResult rfl).and_then fun h => h.sound_clearEventState
  · exact .refl h

end

section
variable {p : Params} {P : Parser}

theorem Parser.Core.sound_runUnitLoop (fuel : Nat) (h : P.Core p) : P.Sound p (Parser.runUnitLoop p fuel P) := by
  induction fuel generalizing P with
  | zero => exact .refl h
  | succ fuel ih =>
    unfold Parser.runUnitLoop
    split
    · exact .refl h
    · rename_i w hw
      exact (h.sound_iteration hw).and_then fun h => ih h

theorem Parser.Core.sound_processUnit (h : P.Core p) (U : List Word) (n : Nat) : P.Sound p (P.processUnit p U n) := by
  have hrun : P.Sound p ((P.openUnit U n).runUnit p) := (h.sound_openUnit U n).and_then fun h => h.sound_runUnitLoop _
  exact hrun.and_then fun h => h.sound_unitOutcome

theorem Parser.Core.sound_walkPackets (fuel : Nat) (rest : List Word) (h : P.Core p) :
    P.Sound p (Parser.walkPackets p fuel rest P) := by
  induction fuel generalizing P rest with
  | zero => exact .refl h
  | succ fuel ih =>
    unfold Parser.walkPackets
    split
    · exact .refl h
    · exact h.sound_addUnused 1
    · exact ((h.sound_packetSeqCheck _).and_then fun h => h.sound_processUnit _ _).and_then fun h => ih _ h

theorem Parser.Sound.closing {r : Parser × Bool} (h : P.Sound p r.1) : P.Sound p (Parser.closing r) := by
  unfold Parser.closing
  split
  · exact h.and_then fun h => h.sound_endCall
  · exact h

/-- Whatever a transition does to its parser is sound. -/
theorem Parser.Core.sound_of_move {Q : Parser} (h : P.Core p) (hm : ParserMove p P Q) : P.Sound p Q := by
  cases hm with
  | word hn =>
    exact ((h.sound_iteration (Parser.getElem?_of_nextWord hn)).and_then fun h => h.sound_unitProgress).closing
  | eth0 _ =>
    exact (h.sound_packetSeqCheck _).and_then fun h => h.sound_atStage _
  | eth1 _ =>
    exact (((h.sound_openUnit _ _).and_then fun h => h.sound_atStage _).and_then fun h => h.sound_unitProgress).closing
  | parseUsb n W =>
    exact ((h.sound_enterCall n W).and_then fun h => h.sound_processUnit W 0).and_then fun h => h.sound_endCall
  | parseEth n W =>
    exact ((h.sound_enterCall n W).and_then fun h => h.sound_walkPackets (W.length + 1) W).and_then
      fun h => h.sound_endCall
  | feedUsb n W =>
    have hopen := (h.sound_enterCall n W).and_then fun h => h.sound_openUnit W 0
    exact ((hopen.and_then fun h => h.sound_atStage .usbUnit).and_then fun h => h.sound_unitProgress).closing
  | feedEth n W =>
    exact ((h.sound_enterCall n W).and_then fun h => h.sound_nextPacket W).closing
  | endOfStream => exact h.sound_endOfStream

end

/-! ## Where a call stands (R21, R185) -/

theorem Parser.CallInv.of_idle {P : Parser} (h : P.call = .idle) : P.CallInv := by
  rw [Parser.CallInv, h]
  rfl

theorem Parser.callInv_closing_over (P : Parser) : (Parser.closing (P, true)).CallInv := .of_idle rfl

section
variable {P : Parser} (hs : P.session = true)
include hs

/-- Between two packets the next header is there in full, or the call is over (R185). -/
theorem Parser.callInv_nextPacket (rest : List Word) : (Parser.closing (P.nextPacket rest)).CallInv := by
  unfold Parser.nextPacket
  split
  · exact Parser.callInv_closing_over _
  · exact Parser.callInv_closing_over _
  · exact ⟨Nat.le_add_left _ _, hs⟩

/-- After a word, the unit has words left, or its end is settled (R189). -/
theorem Parser.callInv_unitProgress (hstage : P.call.stage = .usbUnit ∨ ∃ rest, P.call.stage = .ethUnit rest) :
    (Parser.closing P.unitProgress).CallInv := by
  unfold Parser.unitProgress
  by_cases hlt : P.call.rp < P.call.unit.length
  · rw [if_pos hlt]
    rcases hstage with hst | ⟨rest, hst⟩
    · exact (show P.CallInv by rw [Parser.CallInv, hst]; exact ⟨hlt, hs⟩)
    · exact (show P.CallInv by rw [Parser.CallInv, hst]; exact ⟨hlt, hs⟩)
  · rw [if_neg hlt]
    rcases hstage with hst | ⟨rest, hst⟩ <;> rw [hst]
    · exact Parser.callInv_closing_over _
    · exact Parser.callInv_nextPacket (P.keeps_unitOutcome.session.trans hs) rest

end

/-- A frame word is read from a unit (R75). -/
theorem Parser.stage_of_nextWord {P : Parser} {w : Word} (h : P.nextWord = some (.frame, w)) :
    P.call.stage = .usbUnit ∨ ∃ rest, P.call.stage = .ethUnit rest := by
  unfold Parser.nextWord at h
  split at h <;> rename_i hst
  · cases h
  · exact .inl hst
  · exact .inr ⟨_, hst⟩
  · simp at h
  · simp at h

theorem Parser.call_of_closed {P : Parser} (h : P.CallInv) (hc : P.callOpen = false) : P.call = .idle := by
  unfold Parser.CallInv at h
  unfold Parser.callOpen at hc
  split at h <;> rename_i hst <;> rw [hst] at hc
  · exact h
  all_goals cases hc

/-- A call that reads no word is not open: every stage has a word to read (R21, R185). -/
theorem Parser.call_of_nextWord_none {P : Parser} (h : P.CallInv) (hn : P.nextWord = none) : P.call = .idle := by
  unfold Parser.CallInv at h
  unfold Parser.nextWord at hn
  split at h <;> rename_i hst <;> simp only [hst] at hn
  · exact h
  · rw [List.getElem?_eq_getElem h.1] at hn; cases hn
  · rw [List.getElem?_eq_getElem h.1] at hn; cases hn
  · rename_i rest; cases rest <;> simp at h hn
  · rename_i rest; cases rest <;> simp at h hn

theorem Parser.callInv_of_move {p : Params} {P Q : Parser} (h : P.Inv p) (hm : ParserMove p P Q) : Q.CallInv := by
  obtain ⟨hcore, hcall⟩ := Parser.inv_iff.mp h
  have hsession : Q.session = P.session := (hcore.sound_of_move hm).session
  cases hm with
  | @word w hn =>
    have hkeeps := P.keeps_iteration p w
    have hstage := Parser.stage_of_nextWord hn
    refine Parser.callInv_unitProgress ?_ (by rwa [hkeeps.stage])
    rw [hkeeps.session]
    unfold Parser.CallInv at hcall
    rcases hstage with hst | ⟨rest, hst⟩ <;> rw [hst] at hcall <;> exact hcall.2
  | @eth0 w rest hst =>
    unfold Parser.CallInv at hcall
    rw [hst] at hcall
    obtain ⟨hlen, hs⟩ := hcall
    exact ⟨Nat.le_of_succ_le_succ hlen, hsession.trans hs⟩
  | @eth1 w0 w rest hst =>
    unfold Parser.CallInv at hcall
    rw [hst] at hcall
    exact Parser.callInv_unitProgress hcall.2 (.inr ⟨_, rfl⟩)
  | parseUsb | parseEth => exact .of_idle rfl
  | feedUsb n W _ hs => exact Parser.callInv_unitProgress ((hcore.sound_enterCall n W).session.trans hs) (.inl rfl)
  | feedEth n W _ hs => exact Parser.callInv_nextPacket ((hcore.sound_enterCall n W).session.trans hs) W
  | endOfStream hc _ =>
    refine .of_idle ?_
    rw [← Parser.call_of_closed hcall hc]
    unfold Parser.endOfStream
    split <;> rfl

theorem Parser.Inv.of_move {p : Params} {P Q : Parser} (h : P.Inv p) (hm : ParserMove p P Q) : Q.Inv p :=
  Parser.inv_iff.mpr ⟨((Parser.inv_iff.mp h).1.sound_of_move hm).core, Parser.callInv_of_move h hm⟩

/-! ## Every step (R414) -/

/-- What a step does to the sessions. -/
inductive SessionsMove (s t : State) : Prop where
  | same : t.parser = s.parser → t.otherSessions = s.otherSessions → SessionsMove s t
  | move : ParserMove s.params s.parser t.parser → t.otherSessions = s.otherSessions → SessionsMove s t
  | reset (rs : ReadoutStructure) : s.parser.callOpen = false → ReadoutStructure.legal s.params rs = true →
      (∃ es, s.fetch = .event (.op (.sessionReset rs)) es) →
      t.parser = .afterReset true rs → t.otherSessions = s.sessionsKept → SessionsMove s t
  | turn (k : Nat) {P : Parser} : s.parser.nextWord = none → (∃ es, s.fetch = .event (.turnToSession k) es) →
      s.otherSessions[k]? = some P → t.parser = P → t.otherSessions = s.otherSessions.set k s.parser →
      SessionsMove s t

theorem sessionsMove_of_step {s t : State} (h : step s = .next t) : SessionsMove s t := by
  cases stepped_of_step h with
  | word r hn hm => exact .move hm rfl
  | reader => exact .same rfl rfl
  | @event e es t hn hs ht =>
    cases ht with
    | parser _ r hm => exact .move hm rfl
    | sessionReset rs hc hrs => exact .reset rs hc hrs ⟨es, State.fetch_event hn hs⟩ rfl rfl
    | result | engine | engineConstruct | submit => exact .same rfl rfl
    | caller c ok =>
      obtain ⟨ws, ht⟩ := (callerMove_callerStep { s with schedule := es } c ok).frame
      exact .same (by rw [ht]) (by rw [ht])
    | turnToEngine k =>
      unfold State.turnToEngine
      split <;> exact .same rfl rfl
    | turnToSession k =>
      cases hk : s.otherSessions[k]? with
      | none =>
        rw [State.turnToSession_of_none { s with schedule := es } hk]
        exact .same rfl rfl
      | some P =>
        rw [State.turnToSession_of_some { s with schedule := es } hk]
        exact .turn k hn ⟨es, State.fetch_event hn hs⟩ hk rfl rfl

section
variable {s t : State}

/-- A property that moves and resets keep holds in every session after a step, if it did before. -/
theorem sessions_of_step {I : Parser → Prop} (h : step s = .next t) (hs : ∀ P ∈ s.sessions, I P)
    (hm : ∀ Q, ParserMove s.params s.parser Q → I Q)
    (hr : ∀ rs, ReadoutStructure.legal s.params rs = true → I (.afterReset true rs)) : ∀ P ∈ t.sessions, I P := by
  have hothers (P : Parser) (hP : P ∈ s.otherSessions) : I P := hs P (List.mem_cons_of_mem _ hP)
  have hself : I s.parser := hs _ List.mem_cons_self
  intro P hP
  cases sessionsMove_of_step h with
  | same hp ho =>
    rw [State.sessions, hp, ho] at hP
    exact hs P hP
  | move hmove ho =>
    rw [State.sessions, ho] at hP
    rcases List.mem_cons.mp hP with rfl | hP
    · exact hm _ hmove
    · exact hothers P hP
  | reset rs _ hrs _ hp ho =>
    rw [State.sessions, hp, ho, State.sessionsKept] at hP
    rcases List.mem_cons.mp hP with rfl | hP
    · exact hr rs hrs
    · split at hP
      · exact hs P hP
      · exact hothers P hP
  | @turn k P' _ _ hk hp ho =>
    rw [State.sessions, hp, ho] at hP
    exact hs P ((cons_set_perm s.parser hk).mem_iff.mp hP)

/-- Settles O58. -/
theorem stepKeepsTheParserInvariant : Obligations.StepKeepsTheParserInvariant := by
  intro s t _ ⟨hinv, hothers⟩ h
  have hself : s.parser.Inv s.params := hinv _ List.mem_cons_self
  obtain ⟨hcore, hcall⟩ := Parser.inv_iff.mp hself
  obtain ⟨hparams, -⟩ := frame_of_step h
  refine ⟨hparams ▸ sessions_of_step (I := fun P => P.Inv s.params) h hinv (fun Q hm => hself.of_move hm)
    (fun rs hrs => Parser.inv_afterReset true hrs), fun P hP => ?_⟩
  cases sessionsMove_of_step h with
  | same hp ho => rw [hp]; exact hothers P (ho ▸ hP)
  | move hmove ho =>
    obtain ⟨hs, hP⟩ := hothers P (ho ▸ hP)
    exact ⟨(hcore.sound_of_move hmove).session.trans hs, hP⟩
  | reset rs hc _ _ hp ho =>
    rw [ho, State.sessionsKept] at hP
    rw [hp]
    refine ⟨rfl, ?_⟩
    split at hP
    · rename_i hs
      rcases List.mem_cons.mp hP with rfl | hP
      · exact ⟨hs, Parser.call_of_closed hcall hc⟩
      · exact (hothers P hP).2
    · exact (hothers P hP).2
  | @turn k P' hn _ hk hp ho =>
    obtain ⟨hs, hs', -⟩ := hothers P' (List.mem_of_getElem? hk)
    rw [hp]
    refine ⟨hs', ?_⟩
    rcases List.mem_or_eq_of_mem_set (ho ▸ hP) with hP | rfl
    · exact (hothers P hP).2
    · exact ⟨hs, Parser.call_of_nextWord_none hcall hn⟩

/-- A step that stays in its session does nothing to it, or moves it. -/
theorem move_of_staysInSession (h : step s = .next t) (hs : s.StaysInSession) :
    (t.parser = s.parser ∨ ParserMove s.params s.parser t.parser) ∧ t.otherSessions = s.otherSessions := by
  cases sessionsMove_of_step h with
  | same hp ho => exact ⟨.inl hp, ho⟩
  | move hmove ho => exact ⟨.inr hmove, ho⟩
  | reset rs _ _ hf => obtain ⟨es, hf⟩ := hf; exact absurd hf (hs.1 rs es)
  | turn k _ hf => obtain ⟨es, hf⟩ := hf; exact absurd hf (hs.2 k es)

theorem sound_of_staysInSession (hinv : s.parserInv) (h : step s = .next t) (hs : s.StaysInSession) :
    s.parser.Sound s.params t.parser := by
  have hcore := (Parser.inv_iff.mp (hinv.1 _ List.mem_cons_self)).1
  rcases (move_of_staysInSession h hs).1 with hp | hm
  · rw [hp]; exact .refl hcore
  · exact hcore.sound_of_move hm

/-- Settles O54. -/
theorem unreachableOutcomesStayUncounted : Obligations.UnreachableOutcomesStayUncounted := by
  intro s t hinv h
  have hcore := (Parser.inv_iff.mp (hinv.parser.1 _ List.mem_cons_self)).1
  refine ⟨fun hs => ?_, fun hall => sessions_of_step h hall (fun Q hm => ?_) fun rs _ => ⟨rfl, rfl⟩⟩
  · have hsound := sound_of_staysInSession hinv.parser h hs
    exact ⟨hsound.notAdvancing, hsound.openBlock⟩
  · obtain ⟨hg, hb⟩ := hall _ List.mem_cons_self
    have hsound := hcore.sound_of_move hm
    exact ⟨hsound.notAdvancing.trans hg, hsound.openBlock.trans hb⟩

/-- Settles O55. -/
theorem emittedEventsMatchTheTable : Obligations.EmittedEventsMatchTheTable := by
  intro s t hinv h
  have hcore := (Parser.inv_iff.mp (hinv.parser.1 _ List.mem_cons_self)).1
  refine ⟨fun hs => (sound_of_staysInSession hinv.parser h hs).emitted, fun hall =>
    sessions_of_step (I := fun P => ∀ e ∈ P.emitted, e.Matches P.rs) h hall (fun Q hm e he => ?_)
      fun rs _ e he => absurd he List.not_mem_nil⟩
  have hsound := hcore.sound_of_move hm
  obtain ⟨es, hes, hmatch⟩ := hsound.emitted
  rw [hsound.rs]
  rcases List.mem_append.mp (hes ▸ he) with he | he
  · exact hall _ List.mem_cons_self e he
  · exact hmatch e he

end

end Sys2Proof.Machine

/-! # What no step takes back, and sessions and engines side by side (O56) -/

namespace Sys2Proof.Machine

/-! ## A transition only appends to the emissions of its session (R77, R80) -/

/-- `Q` is the same session as `P`, with the same table, and has emitted what `P` had emitted, and maybe more. -/
structure Parser.Lasts (P Q : Parser) : Prop where
  session : Q.session = P.session
  rs : Q.rs = P.rs
  emitted : ∃ es, Q.emitted = P.emitted ++ es

section
variable {p : Params} {P Q R : Parser}

theorem Parser.Lasts.refl (P : Parser) : P.Lasts P := ⟨rfl, rfl, [], by simp⟩

theorem Parser.Lasts.trans (h : P.Lasts Q) (g : Q.Lasts R) : P.Lasts R := by
  obtain ⟨es, he⟩ := h.emitted
  obtain ⟨fs, hf⟩ := g.emitted
  exact ⟨g.session.trans h.session, g.rs.trans h.rs, es ++ fs, by rw [hf, he, List.append_assoc]⟩

theorem Parser.Keeps.lasts (h : P.Keeps Q) : P.Lasts Q := ⟨h.session, h.rs, h.emitted⟩

theorem Parser.Lasts.of_silent (hs : Q.session = P.session) (hr : Q.rs = P.rs) (he : Q.emitted = P.emitted) :
    P.Lasts Q := ⟨hs, hr, [], by simp [he]⟩

variable (P)

theorem Parser.lasts_openUnit (U : List Word) (n : Nat) : P.Lasts (P.openUnit U n) := .of_silent rfl rfl rfl

theorem Parser.lasts_atStage (g : CallStage) : P.Lasts (P.atStage g) := .of_silent rfl rfl rfl

theorem Parser.lasts_packetSeqCheck (n : BitVec 12) : P.Lasts (P.packetSeqCheck n) := by
  unfold Parser.packetSeqCheck
  dsimp only
  split <;> exact .of_silent rfl rfl rfl

theorem Parser.lasts_enterCall (n : BitVec 32) (W : List Word) : P.Lasts (P.enterCall n W) := by
  unfold Parser.enterCall Parser.bufferSeqCheck
  dsimp only
  split <;> exact .of_silent rfl rfl rfl

theorem Parser.lasts_processUnit (U : List Word) (n : Nat) : P.Lasts (P.processUnit p U n) :=
  ((P.lasts_openUnit U n).trans (Parser.keeps_runUnit _ p).lasts).trans (Parser.keeps_unitOutcome _).lasts

theorem Parser.lasts_walkPackets (fuel : Nat) (rest : List Word) : P.Lasts (Parser.walkPackets p fuel rest P) := by
  induction fuel generalizing P rest with
  | zero => exact .refl P
  | succ fuel ih =>
    unfold Parser.walkPackets
    split
    · exact .refl P
    · exact .of_silent rfl rfl rfl
    · exact ((P.lasts_packetSeqCheck _).trans (Parser.lasts_processUnit _ _ _)).trans (ih _ _)

theorem Parser.lasts_nextPacket (rest : List Word) : P.Lasts (P.nextPacket rest).1 := by
  unfold Parser.nextPacket
  split <;> exact .of_silent rfl rfl rfl

theorem Parser.lasts_unitProgress : P.Lasts P.unitProgress.1 := by
  unfold Parser.unitProgress
  split
  · exact .refl P
  · split
    · exact P.keeps_unitOutcome.lasts
    · exact P.keeps_unitOutcome.lasts.trans (Parser.lasts_nextPacket _ _)
    · exact .refl P
    · exact .refl P
    · exact .refl P

theorem Parser.lasts_endOfStream : P.Lasts P.endOfStream := by
  unfold Parser.endOfStream
  split
  · exact .of_silent rfl rfl rfl
  · exact .refl P

theorem Parser.lasts_closing (r : Parser × Bool) : r.1.Lasts (Parser.closing r) := by
  unfold Parser.closing
  split
  · exact .of_silent rfl rfl rfl
  · exact .refl _

variable {P}

theorem Parser.Lasts.of_move (h : ParserMove p P Q) : P.Lasts Q := by
  cases h with
  | @word w _ =>
    exact ((P.keeps_iteration p w).lasts.trans (Parser.lasts_unitProgress _)).trans (Parser.lasts_closing _)
  | eth0 _ => exact (P.lasts_packetSeqCheck _).trans (Parser.lasts_atStage _ _)
  | eth1 _ =>
    exact (((P.lasts_openUnit _ _).trans (Parser.lasts_atStage _ _)).trans (Parser.lasts_unitProgress _)).trans
      (Parser.lasts_closing _)
  | parseUsb n W =>
    exact ((P.lasts_enterCall n W).trans (Parser.lasts_processUnit _ _ _)).trans (.of_silent rfl rfl rfl)
  | parseEth n W =>
    exact ((P.lasts_enterCall n W).trans (Parser.lasts_walkPackets _ _ _)).trans (.of_silent rfl rfl rfl)
  | feedUsb n W =>
    exact ((((P.lasts_enterCall n W).trans (Parser.lasts_openUnit _ _ _)).trans (Parser.lasts_atStage _ _)).trans
      (Parser.lasts_unitProgress _)).trans (Parser.lasts_closing _)
  | feedEth n W =>
    exact ((P.lasts_enterCall n W).trans (Parser.lasts_nextPacket _ _)).trans (Parser.lasts_closing _)
  | endOfStream => exact P.lasts_endOfStream

/-- Every session goes on being one, with its table and its emissions (R22, R85). -/
theorem exists_session_of_step {s t : State} (h : step s = .next t) (hP : P ∈ s.sessions) (hs : P.session = true) :
    ∃ Q ∈ t.sessions, P.Lasts Q := by
  cases sessionsMove_of_step h with
  | same hp ho => exact ⟨P, by rw [State.sessions, hp, ho]; exact hP, .refl P⟩
  | move hm ho =>
    rcases List.mem_cons.mp hP with rfl | hP
    · exact ⟨_, List.mem_cons_self, .of_move hm⟩
    · exact ⟨P, List.mem_cons_of_mem _ (ho ▸ hP), .refl P⟩
  | reset rs _ _ _ _ ho => exact ⟨P, List.mem_cons_of_mem _ (ho ▸ s.mem_sessionsKept hP hs), .refl P⟩
  | @turn k P' _ _ hk hp ho =>
    refine ⟨P, ?_, .refl P⟩
    rw [State.sessions, hp, ho]
    exact (cons_set_perm s.parser hk).mem_iff.mpr hP

end

/-! ## Sessions and engines share no state (R414) -/

/-- The same machine beside other sessions and other engines. -/
def State.beside (s : State) (ss : List Parser) (cs : List Correlator) : State :=
  { s with otherSessions := ss, otherEngines := cs }

section
variable {s t : State} (ss : List Parser) (cs : List Correlator)

theorem State.afterWord_beside (s : State) (r : Parser × Bool) :
    (s.beside ss cs).afterWord r = (s.afterWord r).beside ss cs := by
  unfold State.afterWord
  split <;> rfl

theorem State.callerTake_beside (s : State) (c : Nat) (q : Request) :
    (s.beside ss cs).callerTake c q = (s.callerTake c q).beside ss cs := by
  unfold State.callerTake
  rw [show (s.beside ss cs).engine.slotResult q = s.engine.slotResult q from rfl]
  split <;> rfl

theorem State.callerStart_beside (s : State) (c : Nat) :
    (s.beside ss cs).callerStart c = (s.callerStart c).beside ss cs := by
  unfold State.callerStart
  rw [show (s.beside ss cs).engine = s.engine from rfl]
  split <;> rfl

theorem State.callerWaitSlot_beside (s : State) (c : Nat) (q : Request) :
    (s.beside ss cs).callerWaitSlot c q = (s.callerWaitSlot c q).beside ss cs := by
  unfold State.callerWaitSlot
  rw [show (s.beside ss cs).engine = s.engine from rfl]
  split
  · split <;> rfl
  · rfl

theorem State.callerWriting_beside (s : State) (c : Nat) (q : Request) (ws : List Word) (ok : Bool) :
    (s.beside ss cs).callerWriting c q ws ok = (s.callerWriting c q ws ok).beside ss cs := by
  unfold State.callerWriting
  dsimp only
  rw [show ((s.beside ss cs).recordWrite ws ok).engine = (s.recordWrite ws ok).engine from rfl]
  split
  · rfl
  · split
    · rfl
    · exact State.callerTake_beside ss cs (s.recordWrite ws ok) c q

theorem State.callerStep_beside (s : State) (c : Nat) (ok : Bool) :
    (s.beside ss cs).callerStep c ok = (s.callerStep c ok).beside ss cs := by
  cases hc : s.callers[c]? with
  | none => rw [State.callerStep_none hc, State.callerStep_none (s := s.beside ss cs) hc]
  | some a =>
    rw [State.callerStep_some hc, State.callerStep_some (s := s.beside ss cs) hc]
    cases a.step with
    | start => exact State.callerStart_beside ss cs s c
    | waitSlot => exact State.callerWaitSlot_beside ss cs s c _
    | writing => exact State.callerWriting_beside ss cs s c _ _ ok
    | waitDone => exact State.callerTake_beside ss cs s c _
    | done r => rfl

theorem frameWordStep_beside {w : Word} (h : frameWordStep w s = .next t) :
    frameWordStep w (s.beside ss cs) = .next (t.beside ss cs) := by
  unfold frameWordStep at h ⊢
  rw [show (s.beside ss cs).parser = s.parser from rfl, show (s.beside ss cs).engine = s.engine from rfl,
    show (s.beside ss cs).params = s.params from rfl]
  split at h <;> rename_i hc
  · split at h <;> rename_i hn
    · cases h
      rw [if_pos hc, if_pos hn, State.afterWord_beside]
    · cases h
  · split at h <;> rename_i hhead
    · cases h
      rw [if_neg hc, if_pos hhead]
      rfl
    · cases h

theorem State.inSession_beside {r : Host.Outcome State Fault Refusal} {u : State} (h : s.inSession r = .next t)
    (hr : r = .next u) : t = u ∧ ∀ r', (s.beside ss cs).inSession r' = r' := by
  obtain ⟨hc, hs, h⟩ := State.inSession_eq_next _ h
  refine ⟨Host.Outcome.next.inj (h.symm.trans hr), fun r' => ?_⟩
  exact State.inSession_of_closed (s := s.beside ss cs) r' hc hs

/-- An instruction that makes no session and no engine does the same whatever stands beside. -/
theorem exec_beside {i : Instr} (h : exec i s = .next t) (hreset : ∀ rs, i ≠ .sessionReset rs)
    (hnew : i ≠ .engineConstruct) : exec i (s.beside ss cs) = .next (t.beside ss cs) := by
  cases i with
  | stack | cont | block | super | stkerr | sysev => exact frameWordStep_beside ss cs h
  | eth0 ch n g d =>
    by_cases hr : s.parser.nextWord = some (.ethWord0, packEth0 ch n g d)
    · obtain ⟨rest, hst⟩ := Parser.nextWord_eq_eth0_iff.mp hr
      rw [exec_eth0 hst] at h
      cases h
      exact exec_eth0 (s := s.beside ss cs) hst
    · rw [show exec (.eth0 ch n g d) s = .refused .notAtThisPosition from if_neg hr] at h
      cases h
  | eth1 ts hp =>
    by_cases hr : s.parser.nextWord = some (.ethWord1, packEth1 ts hp)
    · obtain ⟨w0, rest, hst⟩ := Parser.nextWord_eq_eth1_iff.mp hr
      rw [exec_eth1 hst] at h
      cases h
      rw [exec_eth1 (s := s.beside ss cs) hst]
      exact congrArg _ (State.afterWord_beside ..)
    · rw [show exec (.eth1 ts hp) s = .refused .notAtThisPosition from if_neg hr] at h
      cases h
  | sessionReset rs => exact absurd rfl (hreset rs)
  | engineConstruct => exact absurd rfl hnew
  | parseUsbBuffer n W =>
    obtain ⟨rfl, hin⟩ := State.inSession_beside ss cs h rfl
    exact hin _
  | parseEthBuffer n W =>
    obtain ⟨rfl, hin⟩ := State.inSession_beside ss cs h rfl
    exact hin _
  | endOfStream =>
    obtain ⟨rfl, hin⟩ := State.inSession_beside ss cs h rfl
    exact hin _
  | readParserCounters =>
    obtain ⟨hc, h⟩ := State.exclusive_eq_next _ h
    cases h
    exact State.exclusive_of_closed (s := s.beside ss cs) _ hc
  | rxWords ws =>
    by_cases hw : wellFormed s.params (.rxWords ws) = true
    · rw [show exec (.rxWords ws) s = .next _ from if_pos hw] at h
      cases h
      exact if_pos hw
    · rw [show exec (.rxWords ws) s = .refused .operandOutOfRange from if_neg hw] at h
      cases h
  | generateEvent ev k mods m =>
    by_cases hw : wellFormed s.params (.generateEvent ev k mods m) = true
    · rw [show exec (.generateEvent ev k mods m) s = .next _ from if_pos hw] at h
      cases h
      exact if_pos hw
    · rw [show exec (.generateEvent ev k mods m) s = .refused .operandOutOfRange from if_neg hw] at h
      cases h
  | generateSystemEvent hdr pay m =>
    by_cases hw : wellFormed s.params (.generateSystemEvent hdr pay m) = true
    · rw [show exec (.generateSystemEvent hdr pay m) s = .next _ from if_pos hw] at h
      cases h
      exact if_pos hw
    · rw [show exec (.generateSystemEvent hdr pay m) s = .refused .operandOutOfRange from if_neg hw] at h
      cases h
  | submitSuperTransaction | submitStackTransaction | readerStep | rxTimeout | rxDisconnect | requestStop
  | clearStackErrorCounters | decodeHeader | encodeHeader | isGoodHeader | frameKind | decodeSyseventHeader
  | encodeSyseventHeader | hasContinue | decodeEthHeader | buildReadoutStructure | readEngineCounters =>
    cases h; rfl

/-- The step, its next scheduled transition being `e`. -/
def stepEvent (e : Event) (s : State) : Host.Outcome State Fault Refusal :=
  match e with
  | .op i => exec i s
  | .caller c ok => .next (s.callerStep c ok)
  | .turnToEngine k => .next (s.turnToEngine k)
  | .turnToSession k => .next (s.turnToSession k)
  | .feedUsb n ws => feedUsb n ws s
  | .feedEth n ws => feedEth n ws s

theorem step_of_event {e : Event} {es : List Event} (hn : s.parser.nextWord = none) (hs : s.schedule = e :: es) :
    step s = stepEvent e { s with schedule := es } := by
  rw [step, State.fetch_event hn hs]
  rfl

/-- The transition makes or turns to no other session. -/
def Event.staysInSession : Event → Bool
  | .op (.sessionReset _) => false
  | .turnToSession _ => false
  | _ => true

/-- The transition makes or turns to no other engine. -/
def Event.staysAtEngine : Event → Bool
  | .op .engineConstruct => false
  | .turnToEngine _ => false
  | _ => true

theorem stepEvent_beside {e : Event} (h : stepEvent e s = .next t) (hs : e.staysInSession = true)
    (he : e.staysAtEngine = true) : stepEvent e (s.beside ss cs) = .next (t.beside ss cs) := by
  cases e with
  | op i =>
    refine exec_beside ss cs h (fun rs hi => ?_) fun hi => ?_
    · subst hi; cases hs
    · subst hi; cases he
  | caller c ok =>
    cases h
    exact congrArg _ (State.callerStep_beside ..)
  | turnToEngine k => cases he
  | turnToSession k => cases hs
  | feedUsb n W =>
    obtain ⟨rfl, hin⟩ := State.inSession_beside ss cs h rfl
    exact (hin _).trans (congrArg _ (State.afterWord_beside ..))
  | feedEth n W =>
    obtain ⟨rfl, hin⟩ := State.inSession_beside ss cs h rfl
    exact (hin _).trans (congrArg _ (State.afterWord_beside ..))

theorem step_beside (h : step s = .next t)
    (hs : ∀ e es, s.fetch = .event e es → e.staysInSession = true ∧ e.staysAtEngine = true) :
    step (s.beside ss cs) = .next (t.beside ss cs) := by
  cases hn : s.parser.nextWord with
  | some x =>
    obtain ⟨pos, w⟩ := x
    cases pos with
    | frame =>
      rw [step_of_frameWord hn] at h
      cases h
      rw [step_of_frameWord (s := s.beside ss cs) hn]
      exact congrArg _ (State.afterWord_beside ..)
    | ethWord0 =>
      obtain ⟨rest, hst⟩ := Parser.nextWord_eq_eth0_iff.mp hn
      rw [step_of_eth0 hst] at h
      cases h
      exact step_of_eth0 (s := s.beside ss cs) hst
    | ethWord1 =>
      obtain ⟨w0, rest, hst⟩ := Parser.nextWord_eq_eth1_iff.mp hn
      rw [step_of_eth1 hst] at h
      cases h
      rw [step_of_eth1 (s := s.beside ss cs) hst]
      exact congrArg _ (State.afterWord_beside ..)
  | none =>
    cases hsch : s.schedule with
    | nil =>
      rw [step, State.fetch_reader hn hsch] at h
      cases h
      rw [step, State.fetch_reader (s := s.beside ss cs) hn hsch]
      rfl
    | cons e es =>
      obtain ⟨hse, hen⟩ := hs e es (State.fetch_event hn hsch)
      rw [step_of_event hn hsch] at h
      rw [step_of_event (s := s.beside ss cs) hn hsch]
      exact stepEvent_beside ss cs h hse hen

end

theorem Event.eq_of_not_staysAtEngine {e : Event} (h : ¬ e.staysAtEngine = true) :
    e = .op .engineConstruct ∨ ∃ k, e = .turnToEngine k := by
  unfold Event.staysAtEngine at h
  split at h
  · exact .inl rfl
  · exact .inr ⟨_, rfl⟩
  · exact absurd rfl h

theorem Event.eq_of_not_staysInSession {e : Event} (h : ¬ e.staysInSession = true) :
    (∃ rs, e = .op (.sessionReset rs)) ∨ ∃ k, e = .turnToSession k := by
  unfold Event.staysInSession at h
  split at h
  · exact .inl ⟨_, rfl⟩
  · exact .inr ⟨_, rfl⟩
  · exact absurd rfl h

theorem State.staysInSession_iff {s : State} :
    s.StaysInSession ↔ ∀ e es, s.fetch = .event e es → e.staysInSession = true := by
  constructor
  · rintro ⟨hreset, hturn⟩ e es hf
    by_contra hc
    rcases Event.eq_of_not_staysInSession hc with ⟨rs, rfl⟩ | ⟨k, rfl⟩
    · exact hreset rs es hf
    · exact hturn k es hf
  · intro h
    exact ⟨fun rs es hf => absurd (h _ es hf) Bool.false_ne_true, fun k es hf => absurd (h _ es hf) Bool.false_ne_true⟩

theorem State.staysAtEngine_iff {s : State} :
    s.StaysAtEngine ↔ ∀ e es, s.fetch = .event e es → e.staysAtEngine = true := by
  constructor
  · rintro ⟨hnew, hturn⟩ e es hf
    by_contra hc
    rcases Event.eq_of_not_staysAtEngine hc with rfl | ⟨k, rfl⟩
    · exact hnew es hf
    · exact hturn k es hf
  · intro h
    exact ⟨fun es hf => absurd (h _ es hf) Bool.false_ne_true, fun k es hf => absurd (h _ es hf) Bool.false_ne_true⟩

/-- An event is fetched where no word is read, from the front of the schedule. -/
theorem State.fetch_eq_event {s : State} {e : Event} {es : List Event} (h : s.fetch = .event e es) :
    s.parser.nextWord = none ∧ s.schedule = e :: es := by
  unfold State.fetch at h
  split at h
  · cases h
  · rename_i hn
    split at h
    · rename_i hs
      cases h
      exact ⟨hn, hs⟩
    · cases h

theorem State.turnToEngine_beside (s : State) (k : Nat) (ss : List Parser) :
    State.turnToEngine { s with otherSessions := ss } k = { s.turnToEngine k with otherSessions := ss } := by
  unfold State.turnToEngine
  dsimp only
  split <;> rfl

theorem State.turnToSession_beside (s : State) (k : Nat) (cs : List Correlator) :
    State.turnToSession { s with otherEngines := cs } k = { s.turnToSession k with otherEngines := cs } := by
  unfold State.turnToSession
  dsimp only
  split <;> rfl

section
variable {s t : State} (h : step s = .next t)
include h

/-- A step that stays in its session and at its engine leaves the others. -/
theorem others_of_step (hs : ∀ e es, s.fetch = .event e es → e.staysInSession = true ∧ e.staysAtEngine = true) :
    t.otherSessions = s.otherSessions ∧ t.otherEngines = s.otherEngines := by
  have hself : step s = .next (t.beside s.otherSessions s.otherEngines) :=
    step_beside s.otherSessions s.otherEngines h hs
  rw [Host.Outcome.next.inj (h.symm.trans hself)]
  exact ⟨rfl, rfl⟩

/-- A step that stays in its session does the same whatever the other sessions are (R414). -/
theorem step_otherSessions (hs : ∀ e es, s.fetch = .event e es → e.staysInSession = true) (ss : List Parser) :
    step { s with otherSessions := ss } = .next { t with otherSessions := ss } := by
  by_cases he : ∀ e es, s.fetch = .event e es → e.staysAtEngine = true
  · have hboth := fun e es hf => And.intro (hs e es hf) (he e es hf)
    have hstep : step { s with otherSessions := ss } = .next { t with otherSessions := ss, otherEngines := s.otherEngines } :=
      step_beside ss s.otherEngines h hboth
    rw [hstep, ← (others_of_step h hboth).2]
  · obtain ⟨e, es, hf, he⟩ : ∃ e es, s.fetch = .event e es ∧ ¬ e.staysAtEngine = true := by simpa using he
    obtain ⟨hn, hsch⟩ := State.fetch_eq_event hf
    rw [step_of_event hn hsch] at h
    rw [step_of_event (s := { s with otherSessions := ss }) hn hsch]
    rcases Event.eq_of_not_staysAtEngine he with rfl | ⟨k, rfl⟩
    · cases h; rfl
    · cases h
      exact congrArg _ (State.turnToEngine_beside { s with schedule := es } k ss)

/-- A step that stays at its engine does the same whatever the other engines are (R414). -/
theorem step_otherEngines (he : ∀ e es, s.fetch = .event e es → e.staysAtEngine = true) :
    t.otherEngines = s.otherEngines ∧ ∀ cs, step { s with otherEngines := cs } = .next { t with otherEngines := cs } := by
  by_cases hs : ∀ e es, s.fetch = .event e es → e.staysInSession = true
  · have hboth := fun e es hf => And.intro (hs e es hf) (he e es hf)
    refine ⟨(others_of_step h hboth).2, fun cs => ?_⟩
    have hstep : step { s with otherEngines := cs } = .next { t with otherSessions := s.otherSessions, otherEngines := cs } :=
      step_beside s.otherSessions cs h hboth
    rw [hstep, ← (others_of_step h hboth).1]
  · obtain ⟨e, es, hf, hs⟩ : ∃ e es, s.fetch = .event e es ∧ ¬ e.staysInSession = true := by simpa using hs
    obtain ⟨hn, hsch⟩ := State.fetch_eq_event hf
    rw [step_of_event hn hsch] at h
    refine (and_congr_right' (forall_congr' fun cs => by
      rw [step_of_event (s := { s with otherEngines := cs }) hn hsch])).mpr ?_
    rcases Event.eq_of_not_staysInSession hs with ⟨rs, rfl⟩ | ⟨k, rfl⟩
    · obtain ⟨hc, h⟩ := State.exclusive_eq_next _ h
      split at h
      · rename_i hw
        cases h
        exact ⟨rfl, fun cs => (State.exclusive_of_closed (s := { s with schedule := es, otherEngines := cs }) _ hc).trans
          (if_pos hw)⟩
      · cases h
    · cases h
      refine ⟨?_, fun cs => congrArg _ (State.turnToSession_beside { s with schedule := es } k cs)⟩
      unfold State.turnToSession
      split <;> rfl

end

/-- Settles O56. -/
theorem stepsOnlyAppendOutputs : Obligations.StepsOnlyAppendOutputs := by
  intro s t h
  obtain ⟨hparams, hwritten⟩ := frame_of_step h
  refine ⟨hparams, hwritten, fun P hP hs => ?sessions, fun hs => ?session, fun he =>
    step_otherEngines h (State.staysAtEngine_iff.mp he)⟩
  case sessions =>
    obtain ⟨Q, hQ, hlasts⟩ := exists_session_of_step h hP hs
    exact ⟨Q, hQ, hlasts.session.trans hs, hlasts.rs, hlasts.emitted⟩
  case session =>
    obtain ⟨hmove, ho⟩ := move_of_staysInSession h hs
    have hlasts : s.parser.Lasts t.parser := by
      rcases hmove with hp | hm
      · rw [hp]; exact .refl _
      · exact .of_move hm
    exact ⟨hlasts.rs, hlasts.session, hlasts.emitted, ho, step_otherSessions h (State.staysInSession_iff.mp hs)⟩

end Sys2Proof.Machine

/-! # The loop over a unit, and the calls (O16, O17, O18, O52, O53) -/

namespace Sys2Proof.Machine

/-! ## Every unit is walked to its end (R240, R263) -/

/-- How many iterations the loop can still take: two for each word left, less one in Idle, where the next one moves on. -/
def Parser.iterationsLeft (P : Parser) : Nat := if P.eventIndex < 0 then 2 * P.remaining - 1 else 2 * P.remaining

/-- The loop over the unit comes to its end, whatever its bound. -/
inductive Walks (p : Params) : Parser → Parser → Prop where
  | done {P : Parser} : P.call.unit[P.call.rp]? = none → Walks p P P
  | word {P Q : Parser} {w : Word} : P.call.unit[P.call.rp]? = some w → Walks p (P.iteration p w) Q → Walks p P Q

section
variable {p : Params} {P Q R : Parser} {w : Word}

theorem Parser.iterationsLeft_iteration (h : P.call.unit[P.call.rp]? = some w) :
    (P.iteration p w).iterationsLeft < P.iterationsLeft := by
  obtain ⟨hle, hbound, hprogress⟩ := P.movesOn_iteration p w h
  have hlt := P.rp_lt_of_getElem? w h
  have hunit := (P.keeps_iteration p w).unit
  unfold Parser.iterationsLeft Parser.remaining
  rw [hunit]
  rcases hprogress with hp | ⟨-, hi, he⟩
  · split <;> split <;> omega
  · rw [if_pos hi, if_neg (not_lt.mpr he)]
    omega

theorem Parser.iterationsLeft_le (P : Parser) : P.iterationsLeft ≤ 2 * P.call.unit.length := by
  unfold Parser.iterationsLeft Parser.remaining
  split <;> omega

theorem walks_runUnitLoop (fuel : Nat) (h : P.iterationsLeft ≤ fuel) (hrp : P.call.rp ≤ P.call.unit.length) :
    Walks p P (Parser.runUnitLoop p fuel P) := by
  induction fuel generalizing P with
  | zero =>
    refine .done (List.getElem?_eq_none ?_)
    unfold Parser.iterationsLeft Parser.remaining at h
    split at h <;> omega
  | succ fuel ih =>
    unfold Parser.runUnitLoop
    split
    · rename_i hn
      exact .done hn
    · rename_i w hw
      have hless := Parser.iterationsLeft_iteration (p := p) hw
      refine .word hw (ih (by omega) ?_)
      rw [(P.keeps_iteration p w).unit]
      exact (P.movesOn_iteration p w hw).bound

theorem walks_runUnit (hrp : P.call.rp ≤ P.call.unit.length) : Walks p P (P.runUnit p) :=
  walks_runUnitLoop _ P.iterationsLeft_le hrp

theorem Walks.unique (h : Walks p P Q) (h' : Walks p P R) : Q = R := by
  induction h with
  | done hn =>
    cases h' with
    | done => rfl
    | word hw => rw [hn] at hw; cases hw
  | word hw _ ih =>
    cases h' with
    | done hn => rw [hn] at hw; cases hw
    | word hw' h' =>
      rw [hw] at hw'
      cases hw'
      exact ih h'

theorem Walks.eq_runUnit (h : Walks p P Q) (hrp : P.call.rp ≤ P.call.unit.length) : P.runUnit p = Q :=
  (walks_runUnit hrp).unique h

theorem Walks.unit (h : Walks p P Q) : Q.call.unit = P.call.unit := by
  induction h with
  | done => rfl
  | @word P _ w _ _ ih => exact ih.trans (P.keeps_iteration p w).unit

theorem Walks.rp (h : Walks p P Q) (hrp : P.call.rp ≤ P.call.unit.length) : Q.call.rp = Q.call.unit.length := by
  induction h with
  | done hn =>
    have := List.getElem?_eq_none_iff.mp hn
    omega
  | @word P _ w hw _ ih =>
    refine ih ?_
    rw [(P.keeps_iteration p w).unit]
    exact (P.movesOn_iteration p w hw).bound

end

/-- Settles O53. -/
theorem everyUnitIsWalkedToItsEnd : Obligations.EveryUnitIsWalkedToItsEnd := by
  intro p P hrp
  have hwalk := walks_runUnit (p := p) hrp
  refine ⟨(hwalk.rp hrp).trans (congrArg _ hwalk.unit), hwalk.unit, fun fuel hf =>
    (walks_runUnitLoop fuel (P.iterationsLeft_le.trans hf) hrp).unique hwalk, fun w w' hw => ?_⟩
  intro Q
  have hmove := P.movesOn_iteration p w hw
  refine ⟨hmove.le, fun hw' => ?_⟩
  have hnext := Q.movesOn_iteration p w' hw'
  rcases hmove.progress with hp | ⟨-, hi, -⟩
  · exact lt_of_lt_of_le hp hnext.le
  · rcases hnext.progress with hq | ⟨-, -, he⟩
    · exact lt_of_le_of_lt hmove.le hq
    · exact absurd he (not_le.mpr hi)

/-! ## The stage of the call does not matter to the loop (R240; log 11) -/

/-- The same parser with other bookkeeping of its call. -/
def Parser.withCall (c : CallState) (P : Parser) : Parser := { P with call := c }

theorem Parser.leavePrefix_withCall (P : Parser) (c : CallState) (d : Bool) :
    (P.withCall c).leavePrefix d = (P.leavePrefix d).withCall c := by
  cases d <;> rfl

theorem Settles.withCall {P Q : Parser} (h : Settles P Q) (c : CallState) : Settles (P.withCall c) (Q.withCall c) := by
  induction h with
  | stop hm hd => exact .stop hm hd
  | fromPrefix hm hp hd _ ih => exact .fromPrefix hm hp hd (by rwa [Parser.leavePrefix_withCall])
  | fromDynamic hm hp hd _ ih => exact .fromDynamic hm hp hd ih
  | nextModule hm hp hd hlt _ ih => exact .nextModule hm hp hd hlt ih
  | complete hm hp hd hlast => exact .complete hm hp hd hlast

theorem Settles.unique {P Q R : Parser} (h : Settles P Q) (h' : Settles P R) : Q = R := by
  induction h with
  | stop hm hd => exact (h'.eq_of_not_done hm hd).symm
  | fromPrefix hm hp hd _ ih => exact ih (h'.of_prefixDone hm hd hp)
  | fromDynamic hm hp hd _ ih => exact ih (h'.of_dynamicDone hm hd hp)
  | nextModule hm hp hd hlt _ ih =>
    rcases h'.of_suffixDone hm hd hp with ⟨-, h'⟩ | ⟨hlast, -⟩
    · exact ih h'
    · exact absurd hlast hlt.ne
  | complete hm hp hd hlast =>
    rcases h'.of_suffixDone hm hd hp with ⟨hlt, -⟩ | ⟨-, rfl⟩
    · exact absurd hlast hlt.ne
    · rfl

section
variable (P : Parser) (g : CallStage) (p : Params) (w : Word)

theorem Parser.settle_atStage : (P.atStage g).settle = P.settle.atStage g := by
  have hcall : P.settle.atStage g = P.settle.withCall { P.call with stage := g } := by
    rw [Parser.atStage, P.settle_call]
    rfl
  rw [hcall]
  cases hm : P.currentModule with
  | none =>
    rw [Parser.settle_of_none hm]
    exact Parser.settle_of_none hm
  | some mod =>
    exact (Parser.settles_settle_of_currentModule (T := P.atStage g) hm).unique
      ((Parser.settles_settle_of_currentModule hm).withCall _)

theorem Parser.idleStackFrame_atStage : (P.atStage g).idleStackFrame w = (P.idleStackFrame w).atStage g := by
  unfold Parser.idleStackFrame
  simp only [apply_ite (Parser.atStage g)]
  refine if_congr Iff.rfl rfl (if_congr Iff.rfl rfl (if_congr Iff.rfl rfl (if_congr Iff.rfl rfl ?_)))
  rw [Parser.startEvent_eq, Parser.startEvent_eq, ← Parser.settle_atStage]
  rfl

theorem Parser.sysEventChain_atStage : (P.atStage g).sysEventChain w = (P.sysEventChain w).atStage g := by
  unfold Parser.sysEventChain
  rw [show (P.atStage g).ahead = P.ahead from rfl]
  dsimp only
  split <;> rfl

theorem Parser.idleStep_atStage : (P.atStage g).idleStep p w = (P.idleStep p w).atStage g := by
  unfold Parser.idleStep
  split
  · exact P.sysEventChain_atStage g w
  · exact P.idleStackFrame_atStage g w
  all_goals rfl

theorem Parser.awaitStep_atStage : (P.atStage g).awaitStep w = (P.awaitStep w).atStage g := by
  unfold Parser.awaitStep
  simp only [apply_ite (Parser.atStage g)]
  exact if_congr Iff.rfl (P.sysEventChain_atStage g w) (if_congr Iff.rfl (if_congr Iff.rfl rfl rfl) rfl)

theorem Parser.copy_atStage (ph : Phase) : (P.atStage g).copy p ph w = (P.copy p ph w).atStage g := by
  unfold Parser.copy
  rw [apply_ite (Parser.atStage g)]
  exact if_congr Iff.rfl rfl rfl

theorem Parser.frameWord_atStage : (P.atStage g).frameWord p w = (P.frameWord p w).atStage g := by
  unfold Parser.frameWord
  rw [show (P.atStage g).phase = P.phase from rfl]
  split
  · exact P.copy_atStage g p w _
  · rw [apply_ite (Parser.atStage g)]
    refine if_congr Iff.rfl ?_ ?_
    · unfold Parser.blockHeader
      rw [apply_ite (Parser.atStage g)]
      exact if_congr Iff.rfl rfl rfl
    · unfold Parser.dynData
      rw [P.copy_atStage g p w]
      dsimp only
      rw [apply_ite (Parser.atStage g)]
      exact if_congr Iff.rfl rfl rfl
  · exact P.copy_atStage g p w _

theorem Parser.dispatch_atStage : (P.atStage g).dispatch p w = (P.dispatch p w).atStage g := by
  unfold Parser.dispatch
  simp only [apply_ite (Parser.atStage g)]
  refine if_congr Iff.rfl (P.idleStep_atStage g p w) (if_congr Iff.rfl (P.awaitStep_atStage g w) ?_)
  unfold Parser.frameStep
  rw [P.frameWord_atStage g p w, apply_ite (Parser.atStage g)]
  exact if_congr Iff.rfl (Parser.settle_atStage _ g) rfl

variable {P w}

theorem Parser.iteration_atStage (h : P.call.unit[P.call.rp]? = some w) :
    (P.atStage g).iteration p w = (P.iteration p w).atStage g := by
  rw [P.iteration_eq_dispatch p w h, (P.atStage g).iteration_eq_dispatch p w h]
  exact P.clearRaised.dispatch_atStage g p w

variable {p}

theorem Walks.atStage {Q : Parser} (h : Walks p P Q) : Walks p (P.atStage g) (Q.atStage g) := by
  induction h with
  | done hn => exact .done hn
  | word hw _ ih => exact .word hw (by rwa [Parser.iteration_atStage g p hw])

end

/-! ## A call run word by word (R197; log 11) -/

theorem run_succ_of_step {M : Host.Core} {s t : M.State} (k : Nat) (h : M.step s = .next t) :
    M.run (k + 1) s = M.run k t := by
  rw [Host.Core.run, h]

theorem run_succ_eq_next {M : Host.Core} {s t : M.State} {k : Nat} (h : M.run (k + 1) s = .next t) :
    ∃ u, M.step s = .next u ∧ M.run k u = .next t := by
  rw [Host.Core.run] at h
  split at h
  · rename_i u hu
    exact ⟨u, hu, h⟩
  · cases h
  · cases h

/-- Some number of steps lead from `s` to `t`. -/
def Reaches (s t : State) : Prop := ∃ k, Sys2Proof.core.run k s = .next t

theorem Reaches.refl (s : State) : Reaches s s := ⟨0, rfl⟩

theorem Reaches.step {s t u : State} (h : step s = .next u) (g : Reaches u t) : Reaches s t := by
  obtain ⟨k, hk⟩ := g
  exact ⟨k + 1, (run_succ_of_step (M := Sys2Proof.core) k h).trans hk⟩

theorem Reaches.trans {s t u : State} (h : Reaches s t) (g : Reaches t u) : Reaches s u := by
  obtain ⟨k, hk⟩ := h
  induction k generalizing s with
  | zero => cases hk; exact g
  | succ k ih =>
    obtain ⟨u, hu, hk⟩ := run_succ_eq_next (M := Sys2Proof.core) hk
    exact .step hu (ih hk)

/-- A frame word is read from the unit that is open (R75). -/
theorem Parser.nextWord_of_unit {P : Parser} {w : Word} (hw : P.call.unit[P.call.rp]? = some w)
    (hstage : P.call.stage = .usbUnit ∨ ∃ rest, P.call.stage = .ethUnit rest) : P.nextWord = some (.frame, w) := by
  unfold Parser.nextWord
  rcases hstage with hst | ⟨rest, hst⟩ <;> rw [hst] <;> dsimp only <;> rw [hw] <;> rfl

theorem Parser.unitProgress_of_word {P : Parser} {w : Word} (hw : P.call.unit[P.call.rp]? = some w) :
    P.unitProgress = (P, false) := by
  rw [Parser.unitProgress, if_pos (P.rp_lt_of_getElem? w hw)]

/-- The words of a unit are run one a step to the unit's end (R240). -/
theorem reaches_of_walks {s : State} {P Q : Parser} (h : Walks s.params P Q)
    (hstage : P.call.stage = .usbUnit ∨ ∃ rest, P.call.stage = .ethUnit rest) :
    Reaches (s.afterWord P.unitProgress) (s.afterWord Q.unitProgress) := by
  induction h with
  | done => exact .refl _
  | @word P Q w hw _ ih =>
    rw [Parser.unitProgress_of_word hw, State.afterWord_goesOn]
    refine .step (step_of_frameWord (s := { s with parser := P }) (Parser.nextWord_of_unit hw hstage)) ?_
    refine ih ?_
    rwa [(P.keeps_iteration s.params w).stage]

theorem Parser.unitOutcome_atStage (P : Parser) (g : CallStage) :
    (P.atStage g).unitOutcome = P.unitOutcome.atStage g := by
  unfold Parser.unitOutcome
  simp only [apply_ite (Parser.atStage g)]
  exact if_congr Iff.rfl rfl (if_congr Iff.rfl rfl (if_congr Iff.rfl rfl rfl))

/-- At the end of a unit its outcome is formed (R189). -/
theorem Parser.unitProgress_end {P : Parser} (h : P.call.unit.length ≤ P.call.rp) (g : CallStage) :
    (P.atStage g).unitProgress = match g with
      | .usbUnit => (P.unitOutcome.atStage g, true)
      | .ethUnit rest => (P.unitOutcome.atStage g).nextPacket rest
      | .noCall => (P.atStage g, false)
      | .ethHeader0 _ => (P.atStage g, false)
      | .ethHeader1 _ _ => (P.atStage g, false) := by
  rw [Parser.unitProgress, if_neg (show ¬ (P.atStage g).call.rp < (P.atStage g).call.unit.length from not_lt.mpr h),
    ← Parser.unitOutcome_atStage]
  cases g <;> rfl

theorem Parser.packetSeqCheck_atStage (P : Parser) (g : CallStage) (n : BitVec 12) :
    (P.atStage g).packetSeqCheck n = (P.packetSeqCheck n).atStage g := by
  unfold Parser.packetSeqCheck
  dsimp only
  rw [show (P.atStage g).pktSeqValid = P.pktSeqValid from rfl,
    show (P.atStage g).lastPacketNumber = P.lastPacketNumber from rfl]
  split <;> rfl

/-- The end of a call forgets where the call stood (R33). -/
theorem State.afterWord_atStage (s : State) (P : Parser) (g : CallStage) :
    s.afterWord (P.atStage g, true) = s.afterWord (P, true) := rfl

/-- The start of a packet's unit lies in the unit (R187). -/
theorem startPosition_le (e : Int) (hp : BitVec 12) (n : Nat) : startPosition e hp n ≤ n := by
  unfold startPosition
  split
  · exact Nat.zero_le n
  · split
    · rename_i h
      exact h.2.le
    · exact Nat.le_refl n

theorem length_take_packetDataWords (d : BitVec 13) (tl : List Word) :
    (tl.take (packetDataWords d tl)).length = packetDataWords d tl := by
  rw [List.length_take, packetDataWords]
  omega

/-- The unit of a packet, run word by word, ends as the atomic one does (R185, R188). -/
theorem reaches_unit_end {s : State} {P : Parser} {U rest : List Word} {n : Nat} (hn : n ≤ U.length) :
    Reaches (s.afterWord ((P.openUnit U n).atStage (.ethUnit rest)).unitProgress)
      (s.afterWord (((P.processUnit s.params U n).atStage (.ethUnit rest)).nextPacket rest)) := by
  have hwalk : Walks s.params (P.openUnit U n) ((P.openUnit U n).runUnit s.params) := walks_runUnit hn
  have hreach := reaches_of_walks (hwalk.atStage (.ethUnit rest)) (.inr ⟨rest, rfl⟩)
  rwa [Parser.unitProgress_end (hwalk.rp hn).ge] at hreach

/-- The packets of an ETH buffer, run word by word, end as the atomic walk does (R185). -/
theorem reaches_walkPackets {s : State} (fuel : Nat) (rest : List Word) (P : Parser) (g : CallStage)
    (hf : rest.length < fuel) : Reaches (s.afterWord ((P.atStage g).nextPacket rest))
      (s.afterWord (Parser.walkPackets s.params fuel rest P, true)) := by
  induction fuel generalizing rest P g with
  | zero => omega
  | succ fuel ih =>
    match rest with
    | [] => exact .refl _
    | [w] => exact .refl _
    | w0 :: w1 :: tl =>
      let n := packetDataWords (field w0 0 13) tl
      let R := P.packetSeqCheck (field w0 16 12)
      let start := startPosition R.eventIndex (field w1 0 12) n
      have heth0 := step_of_eth0 (s := { s with parser := P.atStage (.ethHeader0 (w0 :: w1 :: tl)) })
        (w := w0) (rest := w1 :: tl) rfl
      have heth1 := step_of_eth1 (s := { s with parser := R.atStage (.ethHeader1 w0 (w1 :: tl)) })
        (w0 := w0) (w := w1) (rest := tl) rfl
      have hnext : (P.atStage (.ethHeader0 (w0 :: w1 :: tl))).ethWord0 w0 (w0 :: w1 :: tl) =
          R.atStage (.ethHeader1 w0 (w1 :: tl)) := by
        rw [Parser.ethWord0, Parser.packetSeqCheck_atStage]
        rfl
      have hstart : start ≤ (tl.take n).length := by
        rw [length_take_packetDataWords]
        exact startPosition_le _ _ _
      have hfuel : (tl.drop n).length < fuel := by
        rw [List.length_drop]
        simp only [List.length_cons] at hf
        omega
      refine .step (u := { s with parser := R.atStage (.ethHeader1 w0 (w1 :: tl)) }) (hnext ▸ heth0) (.step heth1 ?_)
      exact (reaches_unit_end (s := s) (P := R) (U := tl.take n) (rest := tl.drop n) hstart).trans
        (ih (tl.drop n) _ _ hfuel)

/-- Settles O52. -/
theorem wordByWordIsTheAtomicCall : Obligations.WordByWordIsTheAtomicCall := by
  intro s n W es hs hc
  have hn : s.parser.nextWord = none := by
    cases hw : s.parser.nextWord with
    | none => rfl
    | some x => rw [Parser.callOpen_of_nextWord hw] at hc; cases hc
  have hatomic {i : Instr} {t : State} (h : exec i { s with schedule := es } = .next t) :
      step { s with schedule := .op i :: es } = .next t :=
    (step_of_event (s := { s with schedule := .op i :: es }) hn rfl).trans h
  have hfed {e : Event} {r : Parser × Bool} {t : State}
      (h : stepEvent e { s with schedule := es } = .next (State.afterWord { s with schedule := es } r))
      (hr : Reaches (State.afterWord { s with schedule := es } r) t) :
      Reaches { s with schedule := e :: es } t :=
    .step ((step_of_event (s := { s with schedule := e :: es }) hn rfl).trans h) hr
  constructor
  · let P := (s.parser.enterCall n W).openUnit W 0
    have hwalk : Walks s.params P (P.runUnit s.params) := walks_runUnit (Nat.zero_le _)
    have hreach := reaches_of_walks (s := { s with schedule := es }) (hwalk.atStage .usbUnit) (.inl rfl)
    rw [Parser.unitProgress_end (hwalk.rp (Nat.zero_le _)).ge] at hreach
    obtain ⟨k, hk⟩ := hfed (e := .feedUsb n W) (State.inSession_of_closed (s := { s with schedule := es }) _ hc hs) hreach
    exact ⟨k, _, hatomic (State.inSession_of_closed (s := { s with schedule := es }) _ hc hs), hk⟩
  · have hreach := reaches_walkPackets (s := { s with schedule := es }) (W.length + 1) W (s.parser.enterCall n W)
      (s.parser.enterCall n W).call.stage (Nat.lt_succ_self _)
    obtain ⟨k, hk⟩ := hfed (e := .feedEth n W) (State.inSession_of_closed (s := { s with schedule := es }) _ hc hs) hreach
    exact ⟨k, _, hatomic (State.inSession_of_closed (s := { s with schedule := es }) _ hc hs), hk⟩

/-! ## Lost buffers (R182, R183) -/

/-- A gap in the buffer numbers is counted and clears the event (R182, R183). -/
theorem Parser.bufferSeqCheck_lost {P : Parser} {n : BitVec 32} (hv : P.bufSeqValid = true)
    (hg : seqGap P.lastBufferNumber n ≠ 0) : P.bufferSeqCheck n =
      { (P.addBufferLoss (seqGap P.lastBufferNumber n)).clearEventState with
        lastBufferNumber := n, bufSeqValid := true } := by
  unfold Parser.bufferSeqCheck
  simp only [if_pos (And.intro hv hg)]

/-- Without a gap only the tracker moves (R182). -/
theorem Parser.bufferSeqCheck_next {P : Parser} {n : BitVec 32}
    (h : ¬ (P.bufSeqValid = true ∧ seqGap P.lastBufferNumber n ≠ 0)) :
    P.bufferSeqCheck n = { P with lastBufferNumber := n, bufSeqValid := true } := by
  unfold Parser.bufferSeqCheck
  simp only [if_neg h]

theorem seqGap_ne_zero_iff (l n : BitVec 32) : seqGap l n ≠ 0 ↔ n ≠ l + 1 := by
  unfold seqGap
  constructor <;> intro h <;> bv_omega

theorem Parser.enterCall_of_lost {P : Parser} {n : BitVec 32} (W : List Word) (hv : P.bufSeqValid = true)
    (hn : n ≠ P.lastBufferNumber + 1) : P.enterCall n W = Parser.enterCall n W { P with
      eventIndex := -1, moduleIndex := -1, phase := .prefixPhase, stackF := ⟨0, 0⟩, blockF := ⟨0, 0⟩,
      spans := [], scratch := [], used := 0, lastBufferNumber := n - 1,
      counters := { P.counters with
        bufferLoss := P.counters.bufferLoss + (n - P.lastBufferNumber - 1).setWidth 64 } } := by
  have hnext : ∀ {Q : Parser}, Q.lastBufferNumber = n - 1 →
      ¬ (Q.bufSeqValid = true ∧ seqGap Q.lastBufferNumber n ≠ 0) := by
    rintro Q hq ⟨-, hg⟩
    refine (seqGap_ne_zero_iff _ n).1 hg ?_
    rw [hq]
    bv_omega
  have hgap : seqGap P.lastBufferNumber n ≠ 0 := (seqGap_ne_zero_iff _ _).2 hn
  unfold Parser.enterCall
  rw [Parser.bufferSeqCheck_lost (by exact hv) (by exact hgap), Parser.bufferSeqCheck_next (hnext (by rfl))]
  rfl

/-- Settles O17. -/
theorem lostBuffersAbandonTheEvent : Obligations.LostBuffersAbandonTheEvent := by
  intro s n W i hi hv hn
  rcases hi with rfl | rfl
  · change s.inSession (.next (s.returnCall (((s.parser.enterCall n W).processUnit s.params W 0)))) = _
    rw [Parser.enterCall_of_lost W hv hn]
    rfl
  · change s.inSession (.next (s.returnCall (Parser.walkPackets s.params (W.length + 1) W (s.parser.enterCall n W)))) = _
    rw [Parser.enterCall_of_lost W hv hn]
    rfl

/-- With no loss a call goes on where the parser stands (R182). -/
theorem Parser.enterCall_of_next {P : Parser} {n : BitVec 32} (W : List Word)
    (h : P.bufSeqValid = false ∨ n = P.lastBufferNumber + 1) : P.enterCall n W = { P with
      lastBufferNumber := n, bufSeqValid := true, call := .idle
      counters := { P.counters with
        bytesProcessed := P.counters.bytesProcessed + BitVec.ofNat 64 (4 * W.length) } } := by
  unfold Parser.enterCall
  rw [Parser.bufferSeqCheck_next]
  · rfl
  · rintro ⟨hv, hg⟩
    rcases h with h | h
    · exact absurd (hv.symm.trans h) (by decide)
    · exact (seqGap_ne_zero_iff _ _).1 hg h

/-! ## A buffer of words that start no frame (R244) -/

/-- `k` words skipped one at a time in Idle (R244). -/
def Parser.skipped (k : Nat) (P : Parser) : Parser :=
  { P with
    counters := { P.counters with unusedBytes := P.counters.unusedBytes + BitVec.ofNat 64 (4 * k) }
    call := { P.call with rp := P.call.rp + k, unitSkipped := true, raised := false } }

/-- A word that is skipped alone in Idle (R244). -/
def StartsNoFrame (p : Params) (w : Word) : Prop :=
  frameKind p (typeOf w) = .blockRead ∨ frameKind p (typeOf w) = .stackContinuation ∨
    frameKind p (typeOf w) = .notRecognized

section
variable {p : Params} {P : Parser} {w : Word}

theorem Parser.iteration_skipped (hw : P.call.unit[P.call.rp]? = some w) (he : P.eventIndex < 0)
    (hk : StartsNoFrame p w) : P.iteration p w = P.skipped 1 := by
  rw [P.iteration_eq_dispatch p w hw, Parser.dispatch, if_pos (show P.clearRaised.eventIndex < 0 from he),
    Parser.idleStep]
  rcases hk with hk | hk | hk <;> rw [hk] <;> rfl

theorem Parser.skipped_skipped (P : Parser) (j k : Nat) : (P.skipped j).skipped k = P.skipped (j + k) := by
  unfold Parser.skipped
  dsimp only
  rw [BitVec.add_assoc, ← BitVec.ofNat_add, ← Nat.mul_add, Nat.add_assoc]

theorem walks_skipped (k : Nat) (hlen : P.call.unit.length = P.call.rp + (k + 1)) (he : P.eventIndex < 0)
    (hall : ∀ w ∈ P.ahead, StartsNoFrame p w) : Walks p P (P.skipped (k + 1)) := by
  induction k generalizing P with
  | zero =>
    have hw : P.call.unit[P.call.rp]? = some P.call.unit[P.call.rp] := List.getElem?_eq_getElem (by omega)
    refine .word hw ?_
    rw [Parser.iteration_skipped hw he (hall _ (by rw [P.ahead_eq_cons _ hw]; exact List.mem_cons_self))]
    exact .done (List.getElem?_eq_none hlen.le)
  | succ k ih =>
    have hw : P.call.unit[P.call.rp]? = some P.call.unit[P.call.rp] := List.getElem?_eq_getElem (by omega)
    refine .word hw ?_
    rw [Parser.iteration_skipped hw he (hall _ (by rw [P.ahead_eq_cons _ hw]; exact List.mem_cons_self)),
      show k + 1 + 1 = 1 + (k + 1) by omega, ← Parser.skipped_skipped]
    refine ih (P := P.skipped 1) (show P.call.unit.length = P.call.rp + 1 + (k + 1) by omega) he fun x hx => hall x ?_
    rw [P.ahead_eq_cons _ hw]
    exact List.mem_cons_of_mem _ hx

end

/-- Settles O18. -/
theorem garbageIsSkippedAndCounted : Obligations.GarbageIsSkippedAndCounted := by
  intro s n W hs hc hnext he hne hall
  obtain ⟨k, hk⟩ : ∃ k, W.length = k + 1 := ⟨W.length - 1, by have := List.length_pos_of_ne_nil hne; omega⟩
  have hrun : ((s.parser.enterCall n W).openUnit W 0).runUnit s.params =
      ((s.parser.enterCall n W).openUnit W 0).skipped W.length := by
    rw [Parser.enterCall_of_next W hnext]
    refine Walks.eq_runUnit ?_ (Nat.zero_le _)
    rw [hk]
    exact walks_skipped k (hk.trans (Nat.zero_add _).symm) he hall
  have hexec : exec (.parseUsbBuffer n W) s = .next (s.returnCall (s.parser.parseUsb s.params n W)) :=
    State.inSession_of_closed _ hc hs
  have hstart : decide (s.parser.eventIndex < 0) = true := decide_eq_true he
  rw [hexec, Parser.parseUsb, Parser.processUnit, hrun, Parser.enterCall_of_next W hnext]
  simp only [Parser.openUnit, Parser.skipped, Parser.addUnused, bytesOfWords, Nat.mul_zero, BitVec.add_zero, hstart,
    Parser.unitOutcome]
  rfl

/-! ## What a call returns (R189, R190) -/

/-- An outcome of the error class (R400): what a unit may end with first. -/
def ParseOutcome.isError : ParseOutcome → Bool
  | .ok => false
  | .needMoreInput => false
  | .truncatedInput => false
  | _ => true

/-- The first outcome that the call recorded, if any, is of the error class. -/
def Parser.ErrorFirst (P : Parser) : Prop := ∀ o, P.call.callFirst = some o → o.isError = true

section
variable {P Q : Parser} {p : Params} {w : Word}

theorem Parser.ErrorFirst.of_eq (h : P.ErrorFirst) (hq : Q.call.callFirst = P.call.callFirst) : Q.ErrorFirst :=
  fun o ho => h o (hq ▸ ho)

theorem Parser.ErrorFirst.of_note {o : ParseOutcome} (h : P.ErrorFirst) (ho : o.isError = true)
    (hq : Q.call.callFirst = P.call.callFirst.or (some o)) : Q.ErrorFirst := by
  intro o' ho'
  rw [hq] at ho'
  cases hf : P.call.callFirst with
  | none => rw [hf] at ho'; cases ho'; exact ho
  | some x => rw [hf] at ho'; cases ho'; exact h _ hf

variable (h : P.ErrorFirst)
include h

theorem Parser.ErrorFirst.sysEventChain : (P.sysEventChain w).ErrorFirst := by
  unfold Parser.sysEventChain
  dsimp only
  split
  · exact h.of_eq rfl
  · exact h.of_note (o := .systemEventDropped) rfl rfl

theorem Parser.ErrorFirst.idleStackFrame : (P.idleStackFrame w).ErrorFirst := by
  unfold Parser.idleStackFrame
  dsimp only
  split
  · exact h.of_eq rfl
  · split
    · exact h.of_note (o := .stackIndexOutOfRange) rfl rfl
    · split
      · exact h.of_note (o := .unexpectedNonEmptyStackFrame) rfl rfl
      · split
        · exact h.of_note (o := .unexpectedOpenBlockOnNewEvent) rfl rfl
        · refine h.of_eq ?_
          rw [Parser.startEvent_call]
          rfl

theorem Parser.ErrorFirst.idleStep : (P.idleStep p w).ErrorFirst := by
  unfold Parser.idleStep
  split
  · exact h.sysEventChain
  · exact h.idleStackFrame
  all_goals exact h.of_eq rfl

theorem Parser.ErrorFirst.awaitStep : (P.awaitStep w).ErrorFirst := by
  unfold Parser.awaitStep
  split
  · exact h.sysEventChain
  · split
    · split
      · exact h.of_eq rfl
      · exact h.of_note (o := .stackIndexChanged) rfl rfl
    · exact h.of_note (o := .unexpectedFrameType) rfl rfl

theorem Parser.ErrorFirst.copy (ph : Phase) : (P.copy p ph w).ErrorFirst := by
  unfold Parser.copy
  split
  · exact h.of_note (o := .unhandledException) rfl rfl
  · exact h.of_eq rfl

theorem Parser.ErrorFirst.frameWord : (P.frameWord p w).ErrorFirst := by
  unfold Parser.frameWord
  split
  · exact h.copy _
  · split
    · unfold Parser.blockHeader
      split
      · exact h.of_eq rfl
      · exact h.of_note (o := .unexpectedFrameType) rfl rfl
    · unfold Parser.dynData
      dsimp only
      split
      · exact h.copy .dynamicPhase
      · exact h.copy .dynamicPhase
  · exact h.copy _

theorem Parser.ErrorFirst.iteration (hw : P.call.unit[P.call.rp]? = some w) : (P.iteration p w).ErrorFirst := by
  have hclear : P.clearRaised.ErrorFirst := h.of_eq rfl
  rw [P.iteration_eq_dispatch p w hw]
  unfold Parser.dispatch
  split
  · exact hclear.idleStep
  · split
    · exact hclear.awaitStep
    · unfold Parser.frameStep
      dsimp only
      split
      · exact Parser.ErrorFirst.of_eq (hclear.frameWord (p := p) (w := w)) (by rw [Parser.settle_call])
      · exact hclear.frameWord

omit h in
theorem Parser.ErrorFirst.runUnitLoop (fuel : Nat) (h : P.ErrorFirst) : (Parser.runUnitLoop p fuel P).ErrorFirst := by
  induction fuel generalizing P with
  | zero => exact h
  | succ fuel ih =>
    unfold Parser.runUnitLoop
    split
    · exact h
    · rename_i w hw
      exact ih (h.iteration hw)

theorem Parser.ErrorFirst.unitOutcome : P.unitOutcome.ErrorFirst := by
  unfold Parser.unitOutcome
  split
  · exact h
  · split
    · exact h.of_note (o := .noStackFrameFound) rfl rfl
    · split <;> exact h.of_eq rfl

theorem Parser.ErrorFirst.processUnit (U : List Word) (n : Nat) : (P.processUnit p U n).ErrorFirst :=
  (Parser.ErrorFirst.runUnitLoop _ (h.of_eq (Q := P.openUnit U n) rfl)).unitOutcome

end

section
variable {P : Parser} {p : Params}

theorem Parser.ErrorFirst.packetSeqCheck (h : P.ErrorFirst) (n : BitVec 12) : (P.packetSeqCheck n).ErrorFirst := by
  refine h.of_eq ?_
  unfold Parser.packetSeqCheck
  dsimp only
  split <;> rfl

theorem Parser.ErrorFirst.walkPackets (fuel : Nat) (rest : List Word) (h : P.ErrorFirst) :
    (Parser.walkPackets p fuel rest P).ErrorFirst := by
  induction fuel generalizing rest P with
  | zero => exact h
  | succ fuel ih =>
    match rest with
    | [] => exact h
    | [_] => exact h.of_eq rfl
    | _ :: _ :: _ => exact ih _ ((h.packetSeqCheck _).processUnit _ _)

/-- A call opens with no outcome recorded (R181). -/
theorem Parser.errorFirst_enterCall (P : Parser) (n : BitVec 32) (W : List Word) : (P.enterCall n W).ErrorFirst := by
  intro o ho
  have hnone : (P.enterCall n W).call.callFirst = none := by
    unfold Parser.enterCall Parser.bufferSeqCheck
    dsimp only
    split <;> rfl
  rw [hnone] at ho
  cases ho

/-- A call returns an error, or says whether an event is in progress (R190). -/
theorem Parser.ErrorFirst.callOutcome (h : P.ErrorFirst) : P.callOutcome ≠ .truncatedInput ∧
    (P.callOutcome = .ok → P.eventIndex < 0) ∧ (P.callOutcome = .needMoreInput → 0 ≤ P.eventIndex) := by
  unfold Parser.callOutcome
  split
  · rename_i o ho
    have herr : o.isError = true := h o ho
    refine ⟨?_, ?_, ?_⟩ <;> rintro rfl <;> cases herr
  · split
    · rename_i he
      exact ⟨by simp, by simp, fun _ => he⟩
    · rename_i he
      exact ⟨by simp, fun _ => by omega, by simp⟩

end

/-! ## What a call leaves (R180, R184) -/

/-- What the units of a call leave as its entry set it (R180, R184). -/
structure Parser.KeepsEntry (P Q : Parser) : Prop where
  lasts : P.Lasts Q
  lastBufferNumber : Q.lastBufferNumber = P.lastBufferNumber
  bufSeqValid : Q.bufSeqValid = P.bufSeqValid
  bufferLoss : Q.counters.bufferLoss = P.counters.bufferLoss
  bytesProcessed : Q.counters.bytesProcessed = P.counters.bytesProcessed

section
variable {P Q R : Parser} {p : Params}

theorem Parser.KeepsEntry.refl (P : Parser) : P.KeepsEntry P := ⟨.refl P, rfl, rfl, rfl, rfl⟩

theorem Parser.KeepsEntry.trans (h : P.KeepsEntry Q) (g : Q.KeepsEntry R) : P.KeepsEntry R :=
  ⟨h.lasts.trans g.lasts, g.lastBufferNumber.trans h.lastBufferNumber, g.bufSeqValid.trans h.bufSeqValid,
    g.bufferLoss.trans h.bufferLoss, g.bytesProcessed.trans h.bytesProcessed⟩

theorem Parser.Keeps.keepsEntry (h : P.Keeps Q) : P.KeepsEntry Q :=
  ⟨h.lasts, h.lastBufferNumber, h.bufSeqValid, h.bufferLoss, h.bytesProcessed⟩

/-- What a unit keeps, from where it is opened on. -/
theorem Parser.keeps_opened (P : Parser) (p : Params) (U : List Word) (n : Nat) :
    (P.openUnit U n).Keeps (P.processUnit p U n) :=
  (Parser.keeps_runUnit _ p).trans (Parser.keeps_unitOutcome _)

theorem Parser.keepsEntry_processUnit (P : Parser) (p : Params) (U : List Word) (n : Nat) :
    P.KeepsEntry (P.processUnit p U n) :=
  Parser.KeepsEntry.trans (Q := P.openUnit U n) ⟨Parser.lasts_openUnit P U n, rfl, rfl, rfl, rfl⟩
    (P.keeps_opened p U n).keepsEntry

theorem Parser.keepsEntry_packetSeqCheck (P : Parser) (n : BitVec 12) : P.KeepsEntry (P.packetSeqCheck n) := by
  refine ⟨Parser.lasts_packetSeqCheck P n, ?_, ?_, ?_, ?_⟩ <;> unfold Parser.packetSeqCheck <;> dsimp only <;>
    split <;> rfl

theorem Parser.keepsEntry_walkPackets (fuel : Nat) (rest : List Word) (P : Parser) :
    P.KeepsEntry (Parser.walkPackets p fuel rest P) := by
  induction fuel generalizing rest P with
  | zero => exact .refl P
  | succ fuel ih =>
    match rest with
    | [] => exact .refl P
    | [_] => exact (P.keeps_addUnused 1).keepsEntry
    | _ :: _ :: _ =>
      exact ((P.keepsEntry_packetSeqCheck _).trans (Parser.keepsEntry_processUnit _ _ _ _)).trans (ih _ _)

end

/-- What the entry of a call sets (R180, R182). -/
theorem Parser.enterCall_registers (P : Parser) (n : BitVec 32) (W : List Word) :
    (P.enterCall n W).lastBufferNumber = n ∧ (P.enterCall n W).bufSeqValid = true ∧
      (P.enterCall n W).counters.bytesProcessed = P.counters.bytesProcessed + BitVec.ofNat 64 (4 * W.length) ∧
      (P.enterCall n W).counters.bufferLoss = P.counters.bufferLoss +
        (if P.bufSeqValid then (n - P.lastBufferNumber - 1).setWidth 64 else 0) := by
  by_cases hloss : P.bufSeqValid = true ∧ n ≠ P.lastBufferNumber + 1
  · obtain ⟨hv, hn⟩ := hloss
    rw [Parser.enterCall, Parser.bufferSeqCheck_lost (P := P.callBegin.addProcessed W.length) hv
      ((seqGap_ne_zero_iff _ _).2 hn), if_pos hv]
    exact ⟨rfl, rfl, rfl, rfl⟩
  · have hnext : P.bufSeqValid = false ∨ n = P.lastBufferNumber + 1 := by
      cases hv : P.bufSeqValid with
      | false => exact .inl rfl
      | true => exact .inr (by by_contra hn; exact hloss ⟨hv, hn⟩)
    rw [Parser.enterCall_of_next W hnext]
    refine ⟨rfl, rfl, rfl, ?_⟩
    rcases hnext with hv | hn
    · rw [hv]
      exact (BitVec.add_zero _).symm
    · have hzero : (n - P.lastBufferNumber - 1).setWidth 64 = 0#64 := by
        rw [hn]
        bv_omega
      rw [hzero]
      split <;> exact (BitVec.add_zero _).symm

/-- A call only goes on from where its entry left the packet tracker. -/
theorem Parser.enterCall_tracker (P : Parser) (n : BitVec 32) (W : List Word) :
    (P.enterCall n W).lastPacketNumber = P.lastPacketNumber ∧ (P.enterCall n W).pktSeqValid = P.pktSeqValid ∧
      (P.enterCall n W).counters.ethPacketLoss = P.counters.ethPacketLoss := by
  unfold Parser.enterCall Parser.bufferSeqCheck
  dsimp only
  split <;> exact ⟨rfl, rfl, rfl⟩

/-- Settles O16. -/
theorem parseCallsComplete : Obligations.ParseCallsComplete := by
  intro s n W i hi hs hc
  obtain ⟨hlast, hvalid, hbytes, hloss⟩ := s.parser.enterCall_registers n W
  obtain ⟨Q, hexec, hfirst, hkeeps, husb⟩ : ∃ Q : Parser, exec i s = .next (s.returnCall Q) ∧ Q.ErrorFirst ∧
      (s.parser.enterCall n W).KeepsEntry Q ∧ (i = .parseUsbBuffer n W →
        Q.lastPacketNumber = s.parser.lastPacketNumber ∧ Q.pktSeqValid = s.parser.pktSeqValid ∧
          Q.counters.ethPacketLoss = s.parser.counters.ethPacketLoss) := by
    have hentry := s.parser.errorFirst_enterCall n W
    rcases hi with rfl | rfl
    · obtain ⟨hnum, hval, heth⟩ := s.parser.enterCall_tracker n W
      have hk := (s.parser.enterCall n W).keeps_opened s.params W 0
      exact ⟨_, State.inSession_of_closed _ hc hs, hentry.processUnit _ _, Parser.keepsEntry_processUnit _ _ _ _,
        fun _ => ⟨hk.lastPacketNumber.trans hnum, hk.pktSeqValid.trans hval, hk.ethPacketLoss.trans heth⟩⟩
    · exact ⟨_, State.inSession_of_closed _ hc hs, hentry.walkPackets _ _, Parser.keepsEntry_walkPackets _ _ _, nofun⟩
  obtain ⟨hsession, hrs, hemitted⟩ := (Parser.lasts_enterCall s.parser n W).trans hkeeps.lasts
  obtain ⟨htrunc, hok, hmore⟩ := hfirst.callOutcome
  exact ⟨_, Q.callOutcome, hexec, rfl, htrunc, hok, hmore, hsession.trans hs, hrs, rfl,
    hkeeps.lastBufferNumber.trans hlast, hkeeps.bufSeqValid.trans hvalid, hkeeps.bytesProcessed.trans hbytes,
    hkeeps.bufferLoss.trans hloss, hemitted, husb⟩

end Sys2Proof.Machine

/-! # Generated system events (O22, O24) -/

namespace Sys2Proof.Machine

/-- The header of a generated section (R363). -/
def sectionHeader (hdr : Word) (c : BitVec 1) (n : Nat) : Word :=
  packSysEventHeader c (field hdr 20 3) (field hdr 13 7) (BitVec.ofNat 13 n)

section
variable {m : Nat} {pay : List Word}

/-- More words than the payload has change nothing in the bound of the loop (log 15). -/
theorem systemEventSections_fuel (k t : Nat) (hm : 0 < m) (f g : Nat) (hf : pay.length < f) (hg : pay.length < g) :
    systemEventSections k t m f pay = systemEventSections k t m g pay := by
  induction f generalizing g pay with
  | zero => omega
  | succ f ih =>
    obtain _ | g := g
    · omega
    unfold systemEventSections
    split
    · have hdrop : (pay.drop m).length < f ∧ (pay.drop m).length < g := by rw [List.length_drop]; omega
      rw [ih g hdrop.1 hdrop.2]
    · rfl

theorem encodeSysEventHeader_field (hdr : Word) (c n : Nat) :
    encodeSysEventHeader c (decodeSysEventHeader hdr).ctrlId.toNat (decodeSysEventHeader hdr).subtype.toNat n =
      sectionHeader hdr (BitVec.ofNat 1 c) n := by
  unfold encodeSysEventHeader sectionHeader decodeSysEventHeader
  simp only [BitVec.ofNat_toNat, BitVec.setWidth_eq]

theorem generateSystemEvent_of_le (hdr : Word) (h : pay.length ≤ m) :
    generateSystemEvent hdr pay m = sectionHeader hdr 0#1 pay.length :: pay := by
  unfold generateSystemEvent systemEventSections
  rw [if_neg (not_lt.mpr h), encodeSysEventHeader_field]

theorem generateSystemEvent_of_lt (hdr : Word) (hm : 0 < m) (h : m < pay.length) :
    generateSystemEvent hdr pay m =
      sectionHeader hdr 1#1 m :: (pay.take m ++ generateSystemEvent hdr (pay.drop m) m) := by
  have hdrop : (pay.drop m).length < pay.length := by rw [List.length_drop]; omega
  unfold generateSystemEvent
  rw [systemEventSections, if_pos h, encodeSysEventHeader_field,
    systemEventSections_fuel _ _ hm pay.length ((pay.drop m).length + 1) hdrop (Nat.lt_succ_self _)]

end

theorem frameMaxLegal_of_le {m : BitVec 13} (hm : 2 ≤ m.toNat) : frameMaxLegal m = true := by
  have hhigh : m.toNat ≤ 8191 := Nat.le_of_lt_succ m.isLt
  rw [frameMaxLegal, Bool.and_eq_true]
  exact ⟨decide_eq_true hm, decide_eq_true hhigh⟩

theorem exec_generateSystemEvent (s : State) (hdr : Word) (pay : List Word) {m : BitVec 13} (hm : 2 ≤ m.toNat) :
    exec (.generateSystemEvent hdr pay m) s =
      .next { s with result := .words (generateSystemEvent hdr pay m.toNat) } :=
  if_pos (frameMaxLegal_of_le hm)

/-- Settles O22. -/
theorem generateSystemEventSplitsSections : Obligations.GenerateSystemEventSplitsSections := by
  intro s hdr pay m hm last more
  refine ⟨fun h => ?_, fun h => ⟨_, exec_generateSystemEvent s hdr _ hm, ?_⟩⟩
  · rw [exec_generateSystemEvent s hdr pay hm, generateSystemEvent_of_le hdr h]
    rfl
  · have hmore : sectionHeader hdr 1#1 m.toNat = more := by
      rw [sectionHeader, BitVec.ofNat_toNat, BitVec.setWidth_eq]
    rw [exec_generateSystemEvent s hdr pay hm, generateSystemEvent_of_lt hdr (by omega) h, hmore]

/-- A generated system event is an open chain and a last section (R261, R363). -/
theorem generateSystemEvent_chain (hdr : Word) {m : Nat} (hm : 0 < m) (hlim : m < 2 ^ 13) (pay : List Word) :
    ∃ done h tl, generateSystemEvent hdr pay m = done ++ h :: tl ∧ OpenChain done ∧ typeOf h = 0xFA#8 ∧
      hasContinue h = false ∧ tl.length = payloadWords h := by
  have hlen (c : BitVec 1) {n : Nat} (hn : n ≤ m) : payloadWords (sectionHeader hdr c n) = n := by
    rw [sectionHeader, payloadWords_packSysEventHeader, BitVec.toNat_ofNat, Nat.mod_eq_of_lt (by omega)]
  induction hk : pay.length using Nat.strongRecOn generalizing pay with
  | ind k ih =>
    by_cases h : pay.length ≤ m
    · exact ⟨[], _, pay, generateSystemEvent_of_le hdr h, .nil, typeOf_packSysEventHeader .., by simp [sectionHeader],
        (hlen _ h).symm⟩
    · obtain ⟨done, h', tl, heq, hopen, ht, hc, hl⟩ :=
        ih (pay.drop m).length (by rw [List.length_drop]; omega) (pay.drop m) rfl
      refine ⟨sectionHeader hdr 1#1 m :: (pay.take m ++ done), h', tl, ?_, ?_, ht, hc, hl⟩
      · rw [generateSystemEvent_of_lt hdr hm (not_le.mp h), heq, List.cons_append, List.append_assoc]
      · refine .more _ _ _ (typeOf_packSysEventHeader ..) (by simp [sectionHeader]) ?_ hopen
        rw [hlen _ le_rfl, List.length_take]
        omega

/-- A SystemEvent header is met in Idle and between stack frames alike (R260). -/
theorem Parser.iteration_sysEvent {p : Params} {P : Parser} {w : Word} (hp : p.legal = true)
    (hw : P.call.unit[P.call.rp]? = some w) (ht : typeOf w = 0xFA#8)
    (hpos : P.eventIndex < 0 ∨ P.stackF.left = 0) : P.iteration p w = P.clearRaised.sysEventChain w := by
  rw [P.iteration_eq_dispatch p w hw, Parser.dispatch]
  by_cases he : P.eventIndex < 0
  · rw [if_pos (show P.clearRaised.eventIndex < 0 from he), Parser.idleStep, ht, frameKind_sysEvent hp]
  · rw [if_neg (show ¬ P.clearRaised.eventIndex < 0 from he),
      if_pos (show P.clearRaised.stackF.left = 0 from hpos.resolve_left he), Parser.awaitStep, if_pos ht]

/-- A unit that is one whole chain of SystemEvent sections is emitted (R260, R261). -/
theorem Parser.runUnit_chain {p : Params} {P : Parser} {done tl : List Word} {h : Word} (hp : p.legal = true)
    (hpos : P.eventIndex < 0 ∨ P.stackF.left = 0) (hrp : P.call.rp = 0) (hunit : P.call.unit = done ++ h :: tl)
    (hopen : OpenChain done) (ht : typeOf h = 0xFA#8) (hc : hasContinue h = false) (hl : tl.length = payloadWords h) :
    P.runUnit p = { P with
      emitted := P.emitted ++ [.systemEvent P.call.unit]
      call := { P.call with rp := P.call.unit.length, unitTook := true, raised := false } } := by
  obtain ⟨w, hw, hwt⟩ : ∃ w, P.call.unit[P.call.rp]? = some w ∧ typeOf w = 0xFA#8 := by
    rw [hrp, hunit]
    cases hopen with
    | nil => exact ⟨h, rfl, ht⟩
    | more w _ _ hwt => exact ⟨w, rfl, hwt⟩
  have hahead : P.clearRaised.ahead = P.call.unit := by
    change P.call.unit.drop P.call.rp = _
    rw [hrp, List.drop_zero]
  have hscan : scanChain (P.clearRaised.ahead.length + 1) P.clearRaised.ahead 0 = .whole P.call.unit.length := by
    have hwhole := scanChain_whole hopen (rest := []) ht hc hl
    rw [List.append_nil, ← hunit] at hwhole
    rw [hahead, hwhole]
  have hstep : P.iteration p w = { P with
      emitted := P.emitted ++ [.systemEvent P.call.unit]
      call := { P.call with rp := P.call.unit.length, unitTook := true, raised := false } } := by
    rw [Parser.iteration_sysEvent hp hw hwt hpos, Parser.sysEventChain_whole (P := P.clearRaised) hw hscan, hahead, List.take_length]
    simp only [Parser.clearRaised, hrp, Nat.zero_add]
  refine Walks.eq_runUnit (.word hw ?_) (hrp ▸ Nat.zero_le _)
  rw [hstep]
  exact .done (List.getElem?_eq_none le_rfl)

/-- A unit in which a frame was taken and nothing raised is counted under the state it leaves (R189). -/
theorem Parser.unitOutcome_of_took {P : Parser} (hf : P.call.unitFirst = none) (ht : P.call.unitTook = true) :
    P.unitOutcome = P.bumpResult (if P.eventIndex < 0 then .ok else .needMoreInput) := by
  unfold Parser.unitOutcome
  rw [hf, ht, if_neg (by decide), if_neg (by simp)]
  by_cases he : P.eventIndex < 0
  · rw [if_neg (not_le.mpr he), if_pos he]
  · rw [if_pos (not_lt.mp he), if_neg he]

theorem Parser.callOutcome_of_none {P : Parser} (hf : P.call.callFirst = none) :
    P.callOutcome = if P.eventIndex < 0 then .ok else .needMoreInput := by
  rw [Parser.callOutcome_eq, hf, Option.getD_none]
  by_cases he : P.eventIndex < 0
  · rw [if_neg (not_le.mpr he), if_pos he]
  · rw [if_pos (not_lt.mp he), if_neg he]

/-- Settles O24. -/
theorem generatedSystemEventRoundTrips : Obligations.GeneratedSystemEventRoundTrips := by
  intro s hdr pay ws m n hp hs hc hnext hpos hm hgen o
  rw [exec_generateSystemEvent s hdr pay hm] at hgen
  obtain ⟨done, h, tl, hws, hopen, ht, hcont, hl⟩ := generateSystemEvent_chain hdr (by omega) m.isLt pay
  obtain rfl : generateSystemEvent hdr pay m.toNat = ws := by
    injection hgen with hgen
    injection congrArg State.result hgen
  generalize generateSystemEvent hdr pay m.toNat = ws at hws ⊢
  have hexec : exec (.parseUsbBuffer n ws) s = .next (s.returnCall (s.parser.parseUsb s.params n ws)) :=
    State.inSession_of_closed _ hc hs
  have hrun := Parser.runUnit_chain (P := (s.parser.enterCall n ws).openUnit ws 0) hp
    (by rwa [Parser.enterCall_of_next ws hnext]) rfl hws hopen ht hcont hl
  rw [hexec, Parser.parseUsb, Parser.processUnit, hrun, Parser.enterCall_of_next ws hnext,
    Parser.unitOutcome_of_took, State.returnCall, Parser.callOutcome_of_none]
  · simp only [Parser.openUnit, Parser.addUnused, bytesOfWords, Nat.mul_zero, BitVec.add_zero]
    rfl
  all_goals rfl

end Sys2Proof.Machine

/-! # Generated events (O21) -/

namespace Sys2Proof.Machine

/-! ## The generator works item by item (R360) -/

/-- One item written (R360). -/
def GenState.putItem (env : GenEnv) : GenItem → GenState → GenState
  | .word w, g => g.put env w
  | .block r, g => g.putDynamic env (r.length + 1) r

/-- Items written in order (R360). -/
def GenState.putItems (env : GenEnv) : List GenItem → GenState → GenState
  | [], g => g
  | i :: is, g => GenState.putItems env is (g.putItem env i)

section
variable (env : GenEnv)

theorem GenState.putItems_append (is js : List GenItem) (g : GenState) :
    g.putItems env (is ++ js) = (g.putItems env is).putItems env js := by
  induction is generalizing g with
  | nil => rfl
  | cons i is ih => exact ih _

theorem GenState.putAll_eq_putItems (ws : List Word) (g : GenState) :
    g.putAll env ws = g.putItems env (ws.map .word) := by
  induction ws generalizing g with
  | nil => rfl
  | cons w ws ih => exact ih _

theorem GenState.putModule_eq_putItems (m : GenModule) (g : GenState) :
    g.putModule env m = g.putItems env m.items := by
  rw [GenModule.items, GenState.putItems_append, GenState.putItems_append, ← GenState.putAll_eq_putItems,
    ← GenState.putAll_eq_putItems, GenState.putModule]
  cases m.dynamicWords <;> rfl

theorem GenState.putModules_eq_putItems (ms : List GenModule) (g : GenState) :
    g.putModules env ms = g.putItems env (ms.flatMap GenModule.items) := by
  induction ms generalizing g with
  | nil => rfl
  | cons m ms ih =>
    rw [List.flatMap_cons, GenState.putItems_append, ← GenState.putModule_eq_putItems]
    exact ih _

end

/-! ## What is written are frames (R360) -/

/-- The id of an event's frames (R360). -/
def GenEnv.frameId (env : GenEnv) : BitVec 7 := BitVec.ofNat 7 ((env.ev + 1) * 8 + env.ctrlId.toNat)

/-- The type of the frame being filled (R360). -/
def GenState.frameType (g : GenState) : BitVec 8 := if g.first then 0xF3#8 else 0xF9#8

/-- `out` is what `g` has written, then its open frame filled up with `is` and the frames after it. -/
def GenState.FramesTo (env : GenEnv) (is : List GenItem) (g : GenState) (out : List Word) : Prop :=
  ∃ frames, Packs env.frameMax g.payload is frames ∧ (∀ p ∈ frames, p.length ≤ env.frameMax) ∧ frames ≠ [] ∧
    out = g.out ++ framed env.frameId g.frameType frames

section
variable {env : GenEnv} {g : GenState} {is : List GenItem} {out : List Word}

theorem GenState.flush_eq (c : Bool) : g.flush env c =
    ⟨g.out ++ packHeader g.frameType (if c then 8#4 else 0#4) env.frameId (BitVec.ofNat 13 g.payload.length) ::
      g.payload, [], false⟩ := by
  unfold GenState.flush GenState.frameType encodeHeader
  simp only [List.append_assoc, List.singleton_append]
  cases g.first <;> cases c <;> rfl

theorem GenState.framesTo_last (h : g.payload.length ≤ env.frameMax) :
    g.FramesTo env [] (g.flush env false).out := by
  refine ⟨[g.payload], .last _, ?_, List.cons_ne_nil _ _, ?_⟩
  · simpa using h
  · rw [GenState.flush_eq]
    rfl

/-- A frame that is closed before more is written has Continue (R360). -/
theorem GenState.FramesTo.of_flush (h : (g.flush env true).FramesTo env is out) (hlen : g.payload.length ≤ env.frameMax)
    (hpack : ∀ frames, Packs env.frameMax [] is frames → Packs env.frameMax g.payload is (g.payload :: frames)) :
    g.FramesTo env is out := by
  rw [GenState.flush_eq] at h
  obtain ⟨frames, hpacks, hbound, hne, rfl⟩ := h
  refine ⟨g.payload :: frames, hpack _ hpacks, ?_, List.cons_ne_nil _ _, ?_⟩
  · simpa using ⟨hlen, hbound⟩
  · obtain ⟨q, frames, rfl⟩ := List.exists_cons_of_ne_nil hne
    rw [framed, List.append_assoc]
    rfl

/-- A word that fits the open frame goes into it (R360). -/
theorem GenState.FramesTo.of_word {w : Word} (h : GenState.FramesTo env is { g with payload := g.payload ++ [w] } out)
    (hlen : g.payload.length < env.frameMax) : g.FramesTo env (.word w :: is) out := by
  obtain ⟨frames, hpacks, hrest⟩ := h
  exact ⟨frames, .word _ _ _ _ hlen hpacks, hrest⟩

theorem GenState.payload_flush (c : Bool) : (g.flush env c).payload = [] := by rw [GenState.flush_eq]

theorem GenState.put_of_lt {w : Word} (h : g.payload.length < env.frameMax) :
    g.put env w = { g with payload := g.payload ++ [w] } := by
  unfold GenState.put
  rw [if_neg h.ne]

theorem GenState.put_of_full {w : Word} (hm : 2 ≤ env.frameMax) (h : g.payload.length = env.frameMax) :
    g.put env w = (g.flush env true).put env w := by
  rw [GenState.put_of_lt (g := g.flush env true) (by rw [GenState.payload_flush]; exact Nat.lt_of_lt_of_le Nat.two_pos hm)]
  unfold GenState.put
  rw [if_pos h]

/-- A word goes into the open frame, or into the next one where that one is full (R360). -/
theorem GenState.framesTo_put {w : Word} (hm : 2 ≤ env.frameMax) (hlen : g.payload.length ≤ env.frameMax)
    (ih : ∀ h : GenState, h.payload.length ≤ env.frameMax → h.FramesTo env is ((h.putItems env is).flush env false).out) :
    g.FramesTo env (.word w :: is) (((g.put env w).putItems env is).flush env false).out := by
  have hfits {h : GenState} (hlt : h.payload.length < env.frameMax) :
      h.FramesTo env (.word w :: is) (((h.put env w).putItems env is).flush env false).out := by
    rw [GenState.put_of_lt hlt]
    exact .of_word (ih _ (by rw [List.length_append, List.length_singleton]; omega)) hlt
  rcases hlen.lt_or_eq with hlt | hfull
  · exact hfits hlt
  · rw [GenState.put_of_full hm hfull]
    exact .of_flush (hfits (by rw [GenState.payload_flush]; exact Nat.lt_of_lt_of_le Nat.two_pos hm)) hlen
      fun frames => .full _ _ _ _ hfull

/-! ## A dynamic part (R360) -/

/-- A BlockRead header with room for its words, and as many of them as fit (R360). -/
def GenState.openBlock (env : GenEnv) (r : List Word) (g : GenState) : GenState :=
  let n := min r.length (env.frameMax - g.payload.length - 1)
  { g with payload := g.payload ++
      packHeader 0xF5#8 (if n < r.length then 8#4 else 0#4) 0 (BitVec.ofNat 13 n) :: r.take n }

theorem GenState.putDynamic_of_noRoom {r : List Word} {fuel : Nat} (hm : 2 ≤ env.frameMax)
    (h : env.frameMax < g.payload.length + 2) :
    g.putDynamic env (fuel + 1) r = (g.flush env true).putDynamic env (fuel + 1) r := by
  have hroom : ¬ env.frameMax - (g.flush env true).payload.length < 2 := by
    rw [GenState.payload_flush]
    exact not_lt.mpr hm
  simp only [GenState.putDynamic, if_neg hroom, if_pos (show env.frameMax - g.payload.length < 2 by omega)]

theorem GenState.putDynamic_of_room {r : List Word} {fuel : Nat} (h : g.payload.length + 2 ≤ env.frameMax) :
    g.putDynamic env (fuel + 1) r =
      if min r.length (env.frameMax - g.payload.length - 1) < r.length then
        (g.openBlock env r).putDynamic env fuel (r.drop (env.frameMax - g.payload.length - 1))
      else g.openBlock env r := by
  have hroom : ¬ env.frameMax - g.payload.length < 2 := by omega
  simp only [GenState.putDynamic, if_neg hroom, decide_eq_true_eq, GenState.openBlock, encodeHeader, List.append_assoc,
    List.singleton_append]
  split
  · rename_i hlt
    rw [min_eq_right (by omega)]
    rfl
  · rfl

theorem GenState.framesTo_putDynamic (hm : 2 ≤ env.frameMax)
    (ih : ∀ h : GenState, h.payload.length ≤ env.frameMax → h.FramesTo env is ((h.putItems env is).flush env false).out)
    (fuel : Nat) (r : List Word) (hf : r.length < fuel) (hlen : g.payload.length ≤ env.frameMax) :
    g.FramesTo env (.block r :: is) (((g.putDynamic env fuel r).putItems env is).flush env false).out := by
  induction fuel generalizing g r with
  | zero => omega
  | succ fuel ihf =>
    have hopen {h : GenState} (hroom : h.payload.length + 2 ≤ env.frameMax) :
        h.FramesTo env (.block r :: is) (((h.putDynamic env (fuel + 1) r).putItems env is).flush env false).out := by
      rw [GenState.putDynamic_of_room hroom]
      by_cases hsplit : min r.length (env.frameMax - h.payload.length - 1) < r.length
      · have hn : min r.length (env.frameMax - h.payload.length - 1) = env.frameMax - h.payload.length - 1 :=
          min_eq_right (by omega)
        have hlt : env.frameMax - h.payload.length - 1 < r.length := hn ▸ hsplit
        rw [if_pos hsplit]
        obtain ⟨frames, hpacks, hrest⟩ := ihf (g := h.openBlock env r) (r.drop (env.frameMax - h.payload.length - 1))
          (by rw [List.length_drop]; omega) (by
            rw [GenState.openBlock]
            simp only [List.length_append, List.length_cons, List.length_take]
            omega)
        refine ⟨frames, .split _ _ _ _ _ hroom (by omega) hlt ?_, hrest⟩
        rwa [GenState.openBlock, if_pos hsplit, hn] at hpacks
      · have hn : min r.length (env.frameMax - h.payload.length - 1) = r.length := by omega
        rw [if_neg hsplit]
        obtain ⟨frames, hpacks, hrest⟩ := ih (h.openBlock env r) (by
            rw [GenState.openBlock]
            simp only [List.length_append, List.length_cons, List.length_take]
            omega)
        refine ⟨frames, .block _ _ _ _ hroom (by omega) ?_, hrest⟩
        rwa [GenState.openBlock, if_neg hsplit, hn, List.take_length] at hpacks
    by_cases hroom : g.payload.length + 2 ≤ env.frameMax
    · exact hopen hroom
    · rw [GenState.putDynamic_of_noRoom hm (not_le.mp hroom)]
      exact .of_flush (hopen (by rw [GenState.payload_flush]; exact hm)) hlen fun frames =>
        .noRoom _ _ _ _ (not_le.mp hroom)

/-- The generator writes frames, from any state on (R360). -/
theorem GenState.framesTo_putItems (hm : 2 ≤ env.frameMax) (is : List GenItem) (g : GenState)
    (hlen : g.payload.length ≤ env.frameMax) : g.FramesTo env is ((g.putItems env is).flush env false).out := by
  induction is generalizing g with
  | nil => exact framesTo_last hlen
  | cons i is ih =>
    cases i with
    | word w => exact framesTo_put hm hlen ih
    | block r => exact framesTo_putDynamic hm ih _ r (Nat.lt_succ_self _) hlen

end

/-! ## A payload below the limit is one frame (R360) -/

/-- The words of items written without a split (R360). -/
def itemPayload : GenItem → List Word
  | .word w => [w]
  | .block r => packHeader 0xF5#8 0 0 (BitVec.ofNat 13 r.length) :: r

theorem modulePayload_eq (m : GenModule) : m.payload = m.items.flatMap itemPayload := by
  have hwords (ws : List Word) : (ws.map GenItem.word).flatMap itemPayload = ws := by
    rw [List.flatMap_map]
    exact List.flatMap_singleton' ws
  rw [GenModule.payload, GenModule.items, List.flatMap_append, List.flatMap_append, hwords, hwords]
  cases m.dynamicWords with
  | none => rfl
  | some r => simp [itemPayload, encodeHeader]

theorem packs_eq_singleton {m : Nat} {p : List Word} {is : List GenItem} {frames : List (List Word)}
    (h : Packs m p is frames) (hlen : (p ++ is.flatMap itemPayload).length < m) :
    frames = [p ++ is.flatMap itemPayload] := by
  induction h with
  | last p => rw [List.flatMap_nil, List.append_nil]
  | word p w rest frames _ _ ih =>
    have happ : p ++ (GenItem.word w :: rest).flatMap itemPayload = p ++ [w] ++ rest.flatMap itemPayload := by
      rw [List.flatMap_cons, List.append_assoc]
      rfl
    rw [happ] at hlen ⊢
    exact ih hlen
  | block p r rest frames _ _ _ ih =>
    have happ : p ++ (GenItem.block r :: rest).flatMap itemPayload =
        p ++ packHeader 0xF5#8 0 0 (BitVec.ofNat 13 r.length) :: r ++ rest.flatMap itemPayload := by
      rw [List.flatMap_cons, List.append_assoc]
      rfl
    rw [happ] at hlen ⊢
    exact ih hlen
  | full p w rest frames hfull _ _ =>
    rw [List.length_append] at hlen
    omega
  | split p r n rest frames _ hn hlt _ _ =>
    rw [List.length_append, List.flatMap_cons, List.length_append, itemPayload, List.length_cons] at hlen
    omega
  | noRoom p r rest frames hroom _ _ =>
    rw [List.length_append, List.flatMap_cons, List.length_append, itemPayload, List.length_cons] at hlen
    omega

/-! ## The operation -/

theorem exec_generateEvent (s : State) {ev : BitVec 4} (k : BitVec 3) (mods : List GenModule) {m : BitVec 13}
    (he : ev.toNat ≤ 14) (hm : 2 ≤ m.toNat) : exec (.generateEvent ev k mods m) s =
      .next { s with result := .words (generateEvent ev.toNat k mods m.toNat) } := by
  refine if_pos (show (decide (ev.toNat < maxEvents) && frameMaxLegal m) = true from ?_)
  rw [frameMaxLegal_of_le hm, Bool.and_true]
  exact decide_eq_true (Nat.lt_succ_of_le he)

theorem frameId_eq (ev : BitVec 4) (k : BitVec 3) (m : Nat) :
    GenEnv.frameId ⟨ev.toNat, k, m⟩ = (ev + 1) ++ k := by
  apply BitVec.eq_of_toNat_eq
  rw [GenEnv.frameId, toNat_append, BitVec.toNat_ofNat, BitVec.toNat_add]
  have hk := k.isLt
  have hone : (1 : BitVec 4).toNat = 1 := rfl
  rw [hone]
  dsimp only
  omega

/-- A generated event is its modules' items packed into frames (R360). -/
theorem generateEvent_frames (ev : BitVec 4) (k : BitVec 3) (mods : List GenModule) {m : BitVec 13} (hm : 2 ≤ m.toNat) :
    ∃ frames : List (List Word),
      generateEvent ev.toNat k mods m.toNat = framed ((ev + 1) ++ k) 0xF3#8 frames ∧
      Packs m.toNat [] (mods.flatMap GenModule.items) frames ∧ (∀ p ∈ frames, p.length ≤ m.toNat) ∧ frames ≠ [] := by
  obtain ⟨frames, hpacks, hbound, hne, hout⟩ := GenState.framesTo_putItems (env := ⟨ev.toNat, k, m.toNat⟩) hm
    (mods.flatMap GenModule.items) ⟨[], [], true⟩ (Nat.zero_le _)
  refine ⟨frames, ?_, hpacks, hbound, hne⟩
  rw [generateEvent, GenState.putModules_eq_putItems, hout, frameId_eq ev k]
  rfl

/-- Settles O21. -/
theorem generateEventWritesFrames : Obligations.GenerateEventWritesFrames := by
  intro s ev k mods m he hm
  obtain ⟨frames, hwords, hpacks, hbound, -⟩ := generateEvent_frames ev k mods hm
  have hpay : mods.flatMap GenModule.payload = (mods.flatMap GenModule.items).flatMap itemPayload := by
    rw [List.flatMap_assoc]
    exact List.flatMap_congr fun g _ => modulePayload_eq g
  refine ⟨frames, hwords ▸ exec_generateEvent s k mods he hm, hpacks, hbound, fun hlen => ?_⟩
  rw [hpay] at hlen ⊢
  exact packs_eq_singleton hpacks hlen

end Sys2Proof.Machine

/-! # The modules of a generated event in the parser (O23) -/

namespace Sys2Proof.Machine

/-! ## The payload words of frames (R360) -/

/-- The payload words of items, each dynamic part in one block or more, all but the last with Continue (R360). -/
inductive PayloadOf : List GenItem → List Word → Prop where
  | nil : PayloadOf [] []
  | word {w : Word} {is : List GenItem} {q : List Word} : PayloadOf is q → PayloadOf (.word w :: is) (w :: q)
  | block {r : List Word} {is : List GenItem} {q : List Word} : r.length < 2 ^ 13 → PayloadOf is q →
      PayloadOf (.block r :: is) (packHeader 0xF5#8 0 0 (BitVec.ofNat 13 r.length) :: (r ++ q))
  | more {r r' : List Word} {is : List GenItem} {q : List Word} : r ≠ [] → r.length < 2 ^ 13 →
      PayloadOf (.block r' :: is) q →
      PayloadOf (.block (r ++ r') :: is) (packHeader 0xF5#8 8 0 (BitVec.ofNat 13 r.length) :: (r ++ q))

/-- Frames hold the payload words of what is packed into them, after the words the first one holds already. -/
theorem payloadOf_of_packs {m : Nat} {p : List Word} {is : List GenItem} {frames : List (List Word)} (hm : m < 2 ^ 13)
    (h : Packs m p is frames) : ∃ q, frames.flatten = p ++ q ∧ PayloadOf is q := by
  induction h with
  | last p => exact ⟨[], by simp, .nil⟩
  | word p w is frames _ _ ih =>
    obtain ⟨q, hq, hp⟩ := ih
    exact ⟨w :: q, by rw [hq]; simp, .word hp⟩
  | full p w is frames _ _ ih =>
    obtain ⟨q, hq, hp⟩ := ih
    exact ⟨q, by rw [List.flatten_cons, hq, List.nil_append], hp⟩
  | block p r is frames _ hlen _ ih =>
    obtain ⟨q, hq, hp⟩ := ih
    exact ⟨_, by rw [hq]; simp, .block (by omega) hp⟩
  | split p r n is frames hroom hn hlt _ ih =>
    obtain ⟨q, hq, hp⟩ := ih
    have htake : (r.take n).length = n := by rw [List.length_take]; omega
    refine ⟨packHeader 0xF5#8 8 0 (BitVec.ofNat 13 n) :: (r.take n ++ q), by rw [hq]; simp, ?_⟩
    have hmore := PayloadOf.more (r := r.take n) (by intro h; rw [h] at htake; simp at htake; omega) (by omega) hp
    rwa [List.take_append_drop, htake] at hmore
  | noRoom p r is frames _ _ ih =>
    obtain ⟨q, hq, hp⟩ := ih
    exact ⟨q, by rw [List.flatten_cons, hq, List.nil_append], hp⟩

/-- No frame is empty where there is something to pack (R360). -/
theorem ne_nil_of_packs {m : Nat} {p : List Word} {is : List GenItem} {frames : List (List Word)} (hm : 2 ≤ m)
    (h : Packs m p is frames) (hne : p ≠ [] ∨ is ≠ []) : ∀ f ∈ frames, f ≠ [] := by
  have hfilled {p : List Word} {n : Nat} (hn : 0 < n) (hp : n ≤ p.length) : p ≠ [] :=
    List.ne_nil_of_length_pos (by omega)
  induction h with
  | last p => simpa using hne
  | word p w is frames _ _ ih => exact ih (.inl (by simp))
  | full p w is frames hp _ ih =>
    exact List.forall_mem_cons.mpr ⟨hfilled (n := m) (by omega) hp.ge, ih (.inr (List.cons_ne_nil _ _))⟩
  | block p r is frames _ _ _ ih => exact ih (.inl (by simp))
  | split p r n is frames _ _ _ _ ih => exact ih (.inl (by simp))
  | noRoom p r is frames hp _ ih =>
    exact List.forall_mem_cons.mpr ⟨hfilled (n := 1) one_pos (by omega), ih (.inr (List.cons_ne_nil _ _))⟩

/-! ## What the parser holds of a module (R246, R247, R252) -/

/-- The words of a module's dynamic part. -/
def dynamicData (g : GenModule) : List Word := g.dynamicWords.getD []

/-- The scratch offset of the module that follows `before`: the modules lie one after another. -/
def offsetAfter (before : List GenModule) : Nat := (before.flatMap GenModule.data).length

/-- The spans of a module held whole (R247). -/
def wholeSpan (before : List GenModule) (g : GenModule) : Span :=
  ⟨⟨offsetAfter before, g.prefixWords.length⟩,
    ⟨offsetAfter before + g.prefixWords.length, (dynamicData g).length⟩,
    ⟨offsetAfter before + g.prefixWords.length + (dynamicData g).length, g.suffixWords.length⟩⟩

/-- The items after the dynamic part of `g`, the modules `after` it being still to come. -/
def afterDynamic (g : GenModule) (after : List GenModule) : List GenItem :=
  g.suffixWords.map .word ++ after.flatMap GenModule.items

/-- The items after the words before the dynamic part of `g`. -/
def afterPrefix (g : GenModule) (after : List GenModule) : List GenItem :=
  (g.dynamicWords.map GenItem.block).toList ++ afterDynamic g after

theorem items_cons (g : GenModule) (after : List GenModule) :
    (g :: after).flatMap GenModule.items = g.prefixWords.map .word ++ afterPrefix g after := by
  simp only [List.flatMap_cons, GenModule.items, afterPrefix, afterDynamic, List.append_assoc]

/-- In Prefix: `stored` of the module's words are held, all in its first part. -/
def HoldsPrefix (before : List GenModule) (g : GenModule) (after : List GenModule) (sp : Span) (stored q : List Word) : Prop :=
  ∃ rest, g.prefixWords = stored ++ rest ∧
    sp = ⟨⟨offsetAfter before, stored.length⟩, ⟨offsetAfter before, 0⟩, ⟨offsetAfter before, 0⟩⟩ ∧
    PayloadOf (rest.map .word ++ afterPrefix g after) q

/-- What follows the open block's words: the dynamic part's remaining words `d`, which only a block with Continue or
one not yet opened leaves (R250). -/
def FollowsBlock (g : GenModule) (after : List GenModule) (hdr : Word) (d q : List Word) : Prop :=
  if hdr ≠ 0 ∧ hasContinue hdr = false then d = [] ∧ PayloadOf (afterDynamic g after) q
  else PayloadOf (.block d :: afterDynamic g after) q

/-- In Dynamic: the first part and `a` of the dynamic part are held, the open block has the words `c` to go. -/
def HoldsDynamic (before : List GenModule) (g : GenModule) (after : List GenModule) (b : Cursor) (sp : Span)
    (stored q : List Word) : Prop :=
  ∃ a c d q', g.dynamicWords = some (a ++ (c ++ d)) ∧ stored = g.prefixWords ++ a ∧
    sp = ⟨⟨offsetAfter before, g.prefixWords.length⟩, ⟨offsetAfter before + g.prefixWords.length, a.length⟩,
      ⟨offsetAfter before, 0⟩⟩ ∧
    q = c ++ q' ∧ b.left.toNat = c.length ∧ FollowsBlock g after b.hdr d q'

/-- In Suffix: all but the suffix words `rest` are held. -/
def HoldsSuffix (before : List GenModule) (g : GenModule) (after : List GenModule) (sp : Span) (stored q : List Word) : Prop :=
  ∃ a rest, g.suffixWords = a ++ rest ∧ stored = g.prefixWords ++ dynamicData g ++ a ∧
    sp = { wholeSpan before g with
      suffixSpan := ⟨offsetAfter before + g.prefixWords.length + (dynamicData g).length, a.length⟩ } ∧
    PayloadOf (rest.map .word ++ after.flatMap GenModule.items) q

/-- What is held of the current module, as its phase says. -/
def HoldsPart (before : List GenModule) (g : GenModule) (after : List GenModule) (ph : Phase) (b : Cursor) (sp : Span)
    (stored q : List Word) : Prop :=
  match ph with
  | .prefixPhase => HoldsPrefix before g after sp stored q
  | .dynamicPhase => HoldsDynamic before g after b sp stored q
  | .suffixPhase => HoldsSuffix before g after sp stored q

/-- The scratch buffer holds `ws` from its start on. -/
def HoldsWords (m : Sparse Word) (ws : List Word) : Prop := ∀ i w, ws[i]? = some w → Memory.readWord m i = w

/-- The modules `before` are held whole. -/
def Parser.HoldsModules (before : List GenModule) (P : Parser) : Prop :=
  ∀ j g, before[j]? = some g → P.span j = wholeSpan (before.take j) g

/-- The modules `before` are held, and `stored` of the module `g` after them; `q` are the payload words to come. -/
structure Parser.LoadsAt (before : List GenModule) (g : GenModule) (after : List GenModule) (stored : List Word)
    (P : Parser) (q : List Word) : Prop where
  moduleIndex : P.moduleIndex = before.length
  modules : P.HoldsModules before
  used : P.used = offsetAfter before + stored.length
  scratch : HoldsWords P.scratch (before.flatMap GenModule.data ++ stored)
  part : HoldsPart before g after P.phase P.blockF (P.span before.length) stored q

/-- The event of `mods` is in progress, its payload words `q` being to come. -/
def Parser.Loads (mods : List GenModule) (P : Parser) (q : List Word) : Prop :=
  ∃ before g after stored, mods = before ++ g :: after ∧ P.LoadsAt before g after stored q

/-- The parser stands in a module that needs a word. -/
def Parser.NeedsWord (P : Parser) : Prop := ∃ mod, P.currentModule = some mod ∧ ¬ P.PhaseDone mod

/-- `Q` is in the same event as `P`, in the same stack frame. -/
structure Parser.InEventOf (P Q : Parser) : Prop where
  rs : Q.rs = P.rs
  eventIndex : Q.eventIndex = P.eventIndex
  stackF : Q.stackF = P.stackF
  emitted : Q.emitted = P.emitted

/-- `Q` is what completing the event makes of a parser that holds all of `mods`. -/
def Parser.CompletesWith (mods : List GenModule) (P Q : Parser) : Prop :=
  ∃ R, Q = R.completeEvent ∧ P.InEventOf R ∧ R.HoldsModules mods ∧ HoldsWords R.scratch (mods.flatMap GenModule.data)

theorem Parser.InEventOf.refl (P : Parser) : P.InEventOf P := ⟨rfl, rfl, rfl, rfl⟩

section
variable {P Q R : Parser} {mods : List GenModule}

theorem Parser.InEventOf.trans (h : P.InEventOf Q) (g : Q.InEventOf R) : P.InEventOf R :=
  ⟨g.rs.trans h.rs, g.eventIndex.trans h.eventIndex, g.stackF.trans h.stackF, g.emitted.trans h.emitted⟩

theorem Parser.InEventOf.modules (h : P.InEventOf Q) : Q.modules = P.modules := by
  rw [Parser.modules, h.rs, h.eventIndex, Parser.modules]

theorem Parser.CompletesWith.of_inEventOf (h : P.InEventOf Q) (hc : Q.CompletesWith mods R) : P.CompletesWith mods R := by
  obtain ⟨S, hR, hs, hm, hw⟩ := hc
  exact ⟨S, hR, h.trans hs, hm, hw⟩

theorem Parser.inEventOf_leavePrefix (P : Parser) (d : Bool) : P.InEventOf (P.leavePrefix d) := by
  cases d <;> exact ⟨rfl, rfl, rfl, rfl⟩

end

/-! ## Memory and spans -/

theorem HoldsWords.take {m : Sparse Word} {ws vs : List Word} (h : HoldsWords m (ws ++ vs)) : HoldsWords m ws :=
  fun i w hi => h i w (by rw [List.getElem?_append_left (List.getElem?_eq_some_iff.mp hi).1, hi])

/-- A word written at the end of what the buffer holds. -/
theorem HoldsWords.write {m : Sparse Word} {ws : List Word} (h : HoldsWords m ws) (w : Word) :
    HoldsWords (Memory.write m ws.length w) (ws ++ [w]) := by
  intro i v hi
  rw [Memory.readWord_write]
  rcases Nat.lt_trichotomy i ws.length with hlt | rfl | hgt
  · rw [if_neg hlt.ne]
    exact h i v (by rwa [List.getElem?_append_left hlt] at hi)
  · rw [List.getElem?_concat_length] at hi
    rw [if_pos rfl, Option.some.inj hi]
  · rw [List.getElem?_eq_none (by rw [List.length_append, List.length_singleton]; omega)] at hi
    cases hi

theorem Memory.read_of_holdsWords {m : Sparse Word} {ws : List Word} (x y : List Word) (h : HoldsWords m (x ++ (ws ++ y))) :
    Memory.read m x.length ws.length = ws := by
  induction ws generalizing x with
  | nil => rfl
  | cons w ws ih =>
    have hword : Memory.readWord m x.length = w := h _ _ (by simp)
    have htail := ih (x ++ [w]) (by simpa using h)
    rw [List.length_append, List.length_singleton] at htail
    rw [List.length_cons, Memory.read, hword, htail]

theorem offsetAfter_concat (before : List GenModule) (g : GenModule) :
    offsetAfter (before ++ [g]) =
      offsetAfter before + g.prefixWords.length + (dynamicData g).length + g.suffixWords.length := by
  simp only [offsetAfter, List.flatMap_append, List.length_append, List.flatMap_singleton, GenModule.data, dynamicData]
  omega

theorem Parser.HoldsModules.concat {P : Parser} {before : List GenModule} {g : GenModule} (h : P.HoldsModules before)
    (hg : P.span before.length = wholeSpan before g) : P.HoldsModules (before ++ [g]) := by
  intro j g' hj
  rcases Nat.lt_trichotomy j before.length with hlt | rfl | hgt
  · rw [List.getElem?_append_left hlt] at hj
    rw [List.take_append_of_le_length hlt.le]
    exact h j g' hj
  · rw [List.getElem?_concat_length] at hj
    cases hj
    rw [List.take_left]
    exact hg
  · rw [List.getElem?_eq_none (by rw [List.length_append, List.length_singleton]; omega)] at hj
    cases hj

/-- Only the spans of the modules before the current one count. -/
theorem Parser.HoldsModules.of_span {P Q : Parser} {before : List GenModule} (h : P.HoldsModules before)
    (hspan : ∀ j < before.length, Q.span j = P.span j) : Q.HoldsModules before :=
  fun j g hj => (hspan j (List.getElem?_eq_some_iff.mp hj).1).trans (h j g hj)

/-! ## The current module's shape -/

/-- The current module and its row of the table. -/
theorem shape_of_fits {before after : List GenModule} {g : GenModule} {shapes : List ModuleShape}
    (h : List.Forall₂ GenModule.Fits (before ++ g :: after) shapes) :
    ∃ mod, shapes[before.length]? = some mod ∧ g.Fits mod := by
  obtain ⟨hlen, hget⟩ := List.forall₂_iff_get.mp h
  have hlt : before.length < (before ++ g :: after).length := by simp
  refine ⟨_, List.getElem?_eq_getElem (hlen ▸ hlt), ?_⟩
  simpa using hget before.length hlt (hlen ▸ hlt)

section
variable {P Q : Parser} {before after : List GenModule} {g : GenModule} {stored q : List Word}

theorem Parser.LoadsAt.toNat_moduleIndex (h : P.LoadsAt before g after stored q) :
    P.moduleIndex.toNat = before.length := by rw [h.moduleIndex]; rfl

theorem Parser.LoadsAt.currentModule (h : P.LoadsAt before g after stored q)
    (hfit : List.Forall₂ GenModule.Fits (before ++ g :: after) P.modules) :
    ∃ mod, P.currentModule = some mod ∧ g.Fits mod := by
  obtain ⟨mod, hmod, hg⟩ := shape_of_fits hfit
  refine ⟨mod, ?_, hg⟩
  rw [Parser.currentModule, if_neg (by rw [h.moduleIndex]; omega), h.toNat_moduleIndex, hmod]

theorem Parser.Loads.currentModule {mods : List GenModule} (h : P.Loads mods q)
    (hfit : List.Forall₂ GenModule.Fits mods P.modules) : ∃ mod, P.currentModule = some mod := by
  obtain ⟨before, g, after, stored, rfl, hat⟩ := h
  obtain ⟨mod, hmod, -⟩ := hat.currentModule hfit
  exact ⟨mod, hmod⟩

theorem Parser.LoadsAt.fits {mod : ModuleShape} (h : P.LoadsAt before g after stored q)
    (hfit : List.Forall₂ GenModule.Fits (before ++ g :: after) P.modules) (hmod : P.currentModule = some mod) :
    g.Fits mod := by
  obtain ⟨mod', hmod', hg⟩ := h.currentModule hfit
  rw [hmod] at hmod'
  cases hmod'
  exact hg

/-! ## The phases of the current module -/

theorem Parser.LoadsAt.holdsPrefix (h : P.LoadsAt before g after stored q) (hp : P.phase = .prefixPhase) :
    HoldsPrefix before g after (P.span before.length) stored q := by
  have hpart := h.part
  rwa [hp] at hpart

theorem Parser.LoadsAt.holdsDynamic (h : P.LoadsAt before g after stored q) (hp : P.phase = .dynamicPhase) :
    HoldsDynamic before g after P.blockF (P.span before.length) stored q := by
  have hpart := h.part
  rwa [hp] at hpart

theorem Parser.LoadsAt.holdsSuffix (h : P.LoadsAt before g after stored q) (hp : P.phase = .suffixPhase) :
    HoldsSuffix before g after (P.span before.length) stored q := by
  have hpart := h.part
  rwa [hp] at hpart

/-- With the last word of Prefix held, the next part is entered (R247). -/
theorem Parser.LoadsAt.leavePrefix (h : P.LoadsAt before g after stored q) (hp : P.phase = .prefixPhase)
    (hall : (P.span before.length).prefixSpan.size = g.prefixWords.length) :
    (P.leavePrefix g.dynamicWords.isSome).LoadsAt before g after stored q := by
  obtain ⟨rest, hpre, hsp, hq⟩ := h.holdsPrefix hp
  have hlen : stored.length = g.prefixWords.length := by rw [← hall, hsp]
  obtain rfl : rest = [] := by
    rw [hpre, List.length_append] at hlen
    exact List.eq_nil_of_length_eq_zero (by omega)
  rw [List.append_nil] at hpre
  rw [List.map_nil, List.nil_append] at hq
  have hspan (d : Bool) : (P.leavePrefix d).span before.length = ⟨⟨offsetAfter before, g.prefixWords.length⟩,
      ⟨offsetAfter before + g.prefixWords.length, 0⟩,
      if d then ⟨offsetAfter before, 0⟩ else ⟨offsetAfter before + g.prefixWords.length, 0⟩⟩ := by
    rw [Parser.span_leavePrefix, if_pos h.toNat_moduleIndex.symm, hsp, h.used, hlen]
  have hothers (d : Bool) : (P.leavePrefix d).HoldsModules before :=
    h.modules.of_span fun j hj => by rw [Parser.span_leavePrefix, if_neg (by rw [h.toNat_moduleIndex]; omega)]
  cases hdyn : g.dynamicWords with
  | some r =>
    refine ⟨h.moduleIndex, hothers true, h.used, h.scratch, [], [], r, q, hdyn, ?_, hspan true, rfl, rfl, ?_⟩
    · rw [List.append_nil, hpre]
    · rw [afterPrefix, hdyn] at hq
      exact (if_neg (by simp [Parser.leavePrefix, Cursor.closed])).mpr hq
  | none =>
    have hdata : dynamicData g = [] := by rw [dynamicData, hdyn]; rfl
    refine ⟨h.moduleIndex, hothers false, h.used, h.scratch, [], g.suffixWords, rfl, ?_, ?_, ?_⟩
    · rw [hdata, List.append_nil, List.append_nil, hpre]
    · refine (hspan false).trans ?_
      rw [wholeSpan, hdata]
      rfl
    · rw [afterPrefix, hdyn] at hq
      exact hq

/-- With the last block over, Suffix is entered (R247). -/
theorem Parser.LoadsAt.leaveDynamic (h : P.LoadsAt before g after stored q) (hp : P.phase = .dynamicPhase)
    (hover : blockFinished P.blockF = true) : P.leaveDynamic.LoadsAt before g after stored q := by
  obtain ⟨a, c, d, q', hdyn, hst, hsp, rfl, hleft, hfollows⟩ := h.holdsDynamic hp
  obtain ⟨hhdr, hzero, hcont⟩ := (blockFinished_iff _).mp hover
  obtain rfl : c = [] := List.eq_nil_of_length_eq_zero (by rw [← hleft, hzero]; rfl)
  rw [FollowsBlock, if_pos ⟨hhdr, hcont⟩] at hfollows
  obtain ⟨rfl, hq⟩ := hfollows
  have hdata : dynamicData g = a := by rw [dynamicData, hdyn]; simp
  refine ⟨h.moduleIndex, h.modules.of_span fun j hj => ?_, h.used, h.scratch, [], g.suffixWords, rfl, ?_, ?_, hq⟩
  · rw [Parser.span_leaveDynamic, if_neg (by rw [h.toNat_moduleIndex]; omega)]
  · rw [hst, hdata, List.append_nil]
  · rw [Parser.span_leaveDynamic, if_pos h.toNat_moduleIndex.symm, hsp, h.used, hst, wholeSpan, hdata,
      List.length_append, ← Nat.add_assoc]
    rfl

/-- With the last suffix word held, the module is held whole. -/
theorem Parser.LoadsAt.whole (h : P.LoadsAt before g after stored q) (hp : P.phase = .suffixPhase)
    (hall : (P.span before.length).suffixSpan.size = g.suffixWords.length) :
    P.HoldsModules (before ++ [g]) ∧ P.used = offsetAfter (before ++ [g]) ∧
      HoldsWords P.scratch ((before ++ [g]).flatMap GenModule.data) ∧ PayloadOf (after.flatMap GenModule.items) q := by
  obtain ⟨a, rest, hsuf, hst, hsp, hq⟩ := h.holdsSuffix hp
  have hlen : a.length = g.suffixWords.length := by rw [← hall, hsp]
  obtain rfl : rest = [] := by
    rw [hsuf, List.length_append] at hlen
    exact List.eq_nil_of_length_eq_zero (by omega)
  rw [List.append_nil] at hsuf
  have hdata : stored = g.data := by rw [hst, GenModule.data, hsuf]; rfl
  refine ⟨h.modules.concat ?_, ?_, ?_, hq⟩
  · rw [hsp, hlen, wholeSpan]
  · rw [h.used, hst, offsetAfter_concat, ← hsuf, List.length_append, List.length_append]
    omega
  · rw [List.flatMap_append, List.flatMap_singleton, ← hdata]
    exact h.scratch

/-- A module just entered holds no word (R246). -/
theorem Parser.loadsAt_entered {R : Parser} (hm : R.HoldsModules before) (hu : R.used = offsetAfter before)
    (hs : HoldsWords R.scratch (before.flatMap GenModule.data))
    (hq : PayloadOf ((g :: after).flatMap GenModule.items) q) :
    (R.entered before.length).LoadsAt before g after [] q := by
  refine ⟨rfl, hm.of_span fun j hj => ?_, hu, ?_, g.prefixWords, rfl, ?_, ?_⟩
  · rw [Parser.span_entered, if_neg hj.ne]
  · rwa [List.append_nil]
  · rw [Parser.span_entered, if_pos rfl, Parser.emptySpan, hu]
    rfl
  · rwa [items_cons] at hq

end

/-! ## Settling (R247) -/

/-- `settle()` goes on to the next word that a module needs, or completes the event where no word is to come. -/
theorem Parser.Loads.settles {P Q : Parser} {mods : List GenModule} {q : List Word} (h : Settles P Q)
    (hl : P.Loads mods q) (hfit : List.Forall₂ GenModule.Fits mods P.modules) :
    Q.Loads mods q ∧ Q.NeedsWord ∧ P.InEventOf Q ∨ q = [] ∧ P.CompletesWith mods Q := by
  have onward {P R Q : Parser} (hs : P.InEventOf R)
      (h : Q.Loads mods q ∧ Q.NeedsWord ∧ R.InEventOf Q ∨ q = [] ∧ R.CompletesWith mods Q) :
      Q.Loads mods q ∧ Q.NeedsWord ∧ P.InEventOf Q ∨ q = [] ∧ P.CompletesWith mods Q :=
    h.imp (fun ⟨hl, hn, hq⟩ => ⟨hl, hn, hs.trans hq⟩) fun ⟨hq, hc⟩ => ⟨hq, .of_inEventOf hs hc⟩
  induction h with
  | stop hmod hd => exact .inl ⟨hl, ⟨_, hmod, hd⟩, .refl _⟩
  | @fromPrefix P Q mod hmod hp hd _ ih =>
    obtain ⟨before, g, after, stored, rfl, hat⟩ := hl
    obtain ⟨hpre, -, hdyn⟩ := hat.fits hfit hmod
    rw [Parser.phaseDone_prefix hp, hat.toNat_moduleIndex, ← hpre] at hd
    refine onward (P.inEventOf_leavePrefix _) (ih ⟨before, g, after, stored, rfl, ?_⟩ ?_)
    · rw [← hdyn]
      exact hat.leavePrefix hp hd
    · rwa [Parser.leavePrefix_modules]
  | @fromDynamic P Q mod hmod hp hd _ ih =>
    obtain ⟨before, g, after, stored, rfl, hat⟩ := hl
    rw [Parser.phaseDone_dynamic hp] at hd
    exact onward (R := P.leaveDynamic) ⟨rfl, rfl, rfl, rfl⟩
      (ih ⟨before, g, after, stored, rfl, hat.leaveDynamic hp hd⟩ hfit)
  | @nextModule P Q mod hmod hp hd hlt _ ih =>
    obtain ⟨before, g, after, stored, rfl, hat⟩ := hl
    obtain ⟨-, hsuf, -⟩ := hat.fits hfit hmod
    rw [Parser.phaseDone_suffix hp, hat.toNat_moduleIndex, ← hsuf] at hd
    obtain ⟨hm, hu, hs, hq⟩ := hat.whole hp hd
    cases after with
    | nil =>
      rw [hat.moduleIndex, ← hfit.length_eq, List.length_append, List.length_singleton] at hlt
      omega
    | cons g' after =>
      have hnext : (P.moduleIndex + 1).toNat = (before ++ [g]).length := by
        rw [hat.moduleIndex, List.length_append, List.length_singleton]
        omega
      have hentered : Parser.enterModule (P.moduleIndex + 1).toNat { P with moduleIndex := P.moduleIndex + 1 } =
          P.entered (before ++ [g]).length := by
        rw [Parser.entered, hnext, ← hnext, Int.toNat_of_nonneg (by rw [hat.moduleIndex]; omega)]
      rw [hentered] at ih
      exact onward (R := P.entered _) ⟨rfl, rfl, rfl, rfl⟩
        (ih ⟨before ++ [g], g', after, [], by simp, Parser.loadsAt_entered hm hu hs hq⟩ hfit)
  | @complete P mod hmod hp hd hlast =>
    obtain ⟨before, g, after, stored, rfl, hat⟩ := hl
    obtain ⟨-, hsuf, -⟩ := hat.fits hfit hmod
    rw [Parser.phaseDone_suffix hp, hat.toNat_moduleIndex, ← hsuf] at hd
    obtain ⟨hm, hu, hs, hq⟩ := hat.whole hp hd
    cases after with
    | nil =>
      cases hq
      exact .inr ⟨rfl, _, rfl, ⟨rfl, rfl, rfl, rfl⟩, hm, hs⟩
    | cons g' after =>
      rw [hat.moduleIndex, ← hfit.length_eq, List.length_append, List.length_cons, List.length_cons] at hlast
      omega

/-- What completing the event emits (R257, R258). -/
theorem Parser.CompletesWith.emitted {P Q : Parser} {mods : List GenModule} (h : P.CompletesWith mods Q)
    (hlen : mods.length = P.modules.length) :
    Q.eventIndex = -1 ∧ Q.rs = P.rs ∧ Q.emitted = P.emitted ++ [.eventData P.eventIndex (mods.map GenModule.emission)] := by
  obtain ⟨R, rfl, hsame, hm, hs⟩ := h
  have hdata : R.eventModules = mods.map GenModule.emission := by
    refine List.ext_getElem? fun j => ?_
    rw [Parser.eventModules, hsame.modules, ← hlen]
    by_cases hj : j < mods.length
    · have hsplit : mods.flatMap GenModule.data = (mods.take j).flatMap GenModule.data ++
          (mods[j].data ++ (mods.drop (j + 1)).flatMap GenModule.data) := by
        rw [← List.flatMap_cons, ← List.flatMap_append, ← List.drop_eq_getElem_cons hj, List.take_append_drop]
      have hread : Memory.read R.scratch (offsetAfter (mods.take j)) mods[j].data.length = mods[j].data :=
        Memory.read_of_holdsWords _ _ (hsplit ▸ hs)
      have hsize : mods[j].prefixWords.length + (dynamicData mods[j]).length + mods[j].suffixWords.length =
          mods[j].data.length := by
        simp only [GenModule.data, dynamicData, List.length_append]
      have hmodule : R.moduleData j = mods[j].emission := by
        rw [Parser.moduleData, hm j _ (List.getElem?_eq_getElem hj)]
        simp only [wholeSpan, hsize, hread]
        rfl
      simp [hj, hmodule]
    · simp [hj]
  refine ⟨rfl, hsame.rs, ?_⟩
  change R.emitted ++ [.eventData R.eventIndex R.eventModules] = _
  rw [hdata, hsame.emitted, hsame.eventIndex]

end Sys2Proof.Machine

/-! # A generated event goes through the parser (O23) -/

namespace Sys2Proof.Machine

/-! ## A payload word of the event (R248 to R253) -/

section
variable {P : Parser} {p : Params} {before after : List GenModule} {g : GenModule} {mods : List GenModule}
  {st q q' : List Word} {w : Word} {b : Cursor}

/-- A word that belongs to the current module is held after it is stored. -/
theorem Parser.LoadsAt.stored (h : P.LoadsAt before g after st q)
    (hpart : HoldsPart before g after P.phase b ((P.span before.length).grow P.phase) (st ++ [w]) q') :
    (P.stored w b).LoadsAt before g after (st ++ [w]) q' := by
  have hend : P.used = (before.flatMap GenModule.data ++ st).length := by
    rw [h.used, List.length_append]
    rfl
  refine ⟨h.moduleIndex, h.modules.of_span fun j hj => ?_, ?_, ?_, ?_⟩
  · rw [Parser.span_stored, if_neg (by rw [h.toNat_moduleIndex]; omega)]
  · change P.used + 1 = _
    rw [h.used, List.length_append, List.length_singleton, Nat.add_assoc]
  · have hwritten := h.scratch.write w
    rw [← hend, List.append_assoc] at hwritten
    exact hwritten
  · rw [Parser.span_stored, if_pos h.toNat_moduleIndex.symm, h.toNat_moduleIndex]
    exact hpart

/-- The scratch buffer has room for every word of the event (R264). -/
theorem Parser.LoadsAt.used_lt (h : P.LoadsAt before g after st q) (hst : st.length < g.data.length)
    (hcap : ((before ++ g :: after).flatMap GenModule.data).length ≤ p.scratchWords) : P.used < p.scratchWords := by
  rw [List.flatMap_append, List.flatMap_cons, List.length_append, List.length_append] at hcap
  rw [h.used, offsetAfter]
  omega

theorem payloadOf_word {x : Word} {is : List GenItem} (h : PayloadOf (.word x :: is) (w :: q)) :
    x = w ∧ PayloadOf is q := by
  cases h with
  | word h => exact ⟨rfl, h⟩

theorem packHeader_block_ne_zero (f : BitVec 4) (i : BitVec 7) (l : BitVec 13) : packHeader 0xF5#8 f i l ≠ 0 := by
  intro h
  have ht := typeOf_packHeader 0xF5#8 f i l
  rw [h] at ht
  exact absurd ht (by decide)

/-- `T` is `P` after a payload word, before it is settled: only the word is consumed (R250, R252). -/
structure Parser.TakesWord (P T : Parser) : Prop where
  event : P.consume.InEventOf T
  call : T.call = P.consume.call

theorem Parser.takesWord_stored (P : Parser) (w : Word) (b : Cursor) : P.TakesWord (P.stored w b) :=
  ⟨⟨rfl, rfl, rfl, rfl⟩, rfl⟩

/-- A word of Prefix (R252). -/
theorem Parser.LoadsAt.takes_prefix (h : P.LoadsAt before g after st (w :: q)) (hp : P.phase = .prefixPhase)
    (hmore : (P.span before.length).prefixSpan.size ≠ g.prefixWords.length) :
    (P.stored w P.blockF).LoadsAt before g after (st ++ [w]) q ∧ st.length < g.data.length := by
  obtain ⟨rest, hpre, hsp, hq⟩ := h.holdsPrefix hp
  obtain _ | ⟨x, rest⟩ := rest
  · rw [hsp, hpre, List.append_nil] at hmore
    exact absurd rfl hmore
  obtain ⟨rfl, hnext⟩ := payloadOf_word hq
  refine ⟨h.stored ?_, by simp only [GenModule.data, hpre, List.length_append, List.length_cons]; omega⟩
  rw [hp]
  exact ⟨rest, by rw [hpre, List.append_assoc]; rfl, by rw [hsp, List.length_append]; rfl, hnext⟩

/-- A suffix word (R252). -/
theorem Parser.LoadsAt.takes_suffix (h : P.LoadsAt before g after st (w :: q)) (hp : P.phase = .suffixPhase)
    (hmore : (P.span before.length).suffixSpan.size ≠ g.suffixWords.length) :
    (P.stored w P.blockF).LoadsAt before g after (st ++ [w]) q ∧ st.length < g.data.length := by
  obtain ⟨a, rest, hsuf, hst, hsp, hq⟩ := h.holdsSuffix hp
  obtain _ | ⟨x, rest⟩ := rest
  · rw [hsp, hsuf, List.append_nil] at hmore
    exact absurd rfl hmore
  obtain ⟨rfl, hnext⟩ := payloadOf_word hq
  have hlen : st.length < g.data.length := by
    simp only [hst, GenModule.data, dynamicData, hsuf, List.length_append, List.length_cons]
    omega
  refine ⟨h.stored ?_, hlen⟩
  rw [hp]
  exact ⟨a ++ [x], rest, by rw [hsuf, List.append_assoc]; rfl, by rw [hst, List.append_assoc],
    by rw [hsp, List.length_append]; rfl, hnext⟩

/-- A word of a block (R253). -/
theorem Parser.LoadsAt.takes_dynamic (h : P.LoadsAt before g after st (w :: q)) (hp : P.phase = .dynamicPhase)
    (hb : P.blockF.left ≠ 0) :
    (P.stored w ⟨P.blockF.hdr, P.blockF.left - 1⟩).LoadsAt before g after (st ++ [w]) q ∧ st.length < g.data.length := by
  obtain ⟨a, c, d, q', hdyn, hst, hsp, hq, hleft, hfollows⟩ := h.holdsDynamic hp
  obtain _ | ⟨x, c⟩ := c
  · exact absurd (BitVec.eq_of_toNat_eq hleft) hb
  rw [List.cons_append, List.cons.injEq] at hq
  obtain ⟨rfl, rfl⟩ := hq
  have hlen : st.length < g.data.length := by
    simp only [hst, GenModule.data, hdyn, Option.getD_some, List.length_append, List.length_cons]
    omega
  refine ⟨h.stored ?_, hlen⟩
  rw [hp]
  refine ⟨a ++ [w], c, d, q', by rw [hdyn]; simp, by rw [hst, List.append_assoc], ?_, rfl, ?_, hfollows⟩
  · rw [hsp, List.length_append]
    rfl
  · rw [List.length_cons] at hleft
    change (P.blockF.left - 1).toNat = c.length
    bv_omega

/-- The header of a block (R250). -/
theorem Parser.LoadsAt.opens_block (h : P.LoadsAt before g after st (w :: q)) (hp : P.phase = .dynamicPhase)
    (hb : P.blockF.left = 0) (hopen : ¬ blockFinished P.blockF = true) :
    typeOf w = 0xF5#8 ∧ (P.openBlock w).LoadsAt before g after st q := by
  obtain ⟨a, c, d, q', hdyn, hst, hsp, hq, hleft, hfollows⟩ := h.holdsDynamic hp
  obtain rfl : c = [] := List.eq_nil_of_length_eq_zero (by rw [← hleft, hb]; rfl)
  obtain rfl : w :: q = q' := hq
  rw [FollowsBlock, if_neg fun ⟨hh, hc⟩ => hopen ((blockFinished_iff _).mpr ⟨hh, hb, hc⟩)] at hfollows
  have hloads {r r' tl : List Word} (hd : d = r ++ r') (hl : (lengthOf w).toNat = r.length)
      (hf : FollowsBlock g after w r' tl) (htl : q = r ++ tl) : (P.openBlock w).LoadsAt before g after st q := by
    refine ⟨h.moduleIndex, h.modules, h.used, h.scratch, ?_⟩
    change HoldsPart before g after P.phase ⟨w, lengthOf w⟩ (P.span before.length) st q
    rw [hp]
    exact ⟨a, r, r', tl, by rw [hdyn, hd]; rfl, hst, hsp, htl, hl, hf⟩
  cases hfollows with
  | @block _ _ tl hlen hrest =>
    refine ⟨typeOf_packHeader .., hloads (List.append_nil d).symm ?_ ?_ rfl⟩
    · rw [lengthOf_packHeader, BitVec.toNat_ofNat, Nat.mod_eq_of_lt hlen]
    · rw [FollowsBlock, if_pos ⟨packHeader_block_ne_zero _ _ _, by rw [hasContinue_packHeader]; rfl⟩]
      exact ⟨rfl, hrest⟩
  | @more r r' _ tl _ hlen hrest =>
    refine ⟨typeOf_packHeader .., hloads rfl ?_ ?_ rfl⟩
    · rw [lengthOf_packHeader, BitVec.toNat_ofNat, Nat.mod_eq_of_lt hlen]
    · rw [FollowsBlock, if_neg]
      · exact hrest
      · rintro ⟨-, hc⟩
        rw [hasContinue_packHeader] at hc
        cases hc

/-- The next payload word of the event is taken and settled (R248). -/
theorem Parser.Loads.frameStep (h : P.Loads mods (w :: q)) (hn : P.NeedsWord)
    (hfit : List.Forall₂ GenModule.Fits mods P.modules) (he : 0 ≤ P.eventIndex)
    (hcap : (mods.flatMap GenModule.data).length ≤ p.scratchWords) :
    ∃ T, P.frameStep p w = T.settle ∧ T.Loads mods q ∧ P.TakesWord T := by
  obtain ⟨before, g, after, st, rfl, hat⟩ := h
  obtain ⟨mod, hmod, hmore⟩ := hn
  obtain ⟨hpre, hsuf, -⟩ := hat.fits hfit hmod
  cases hp : P.phase with
  | prefixPhase =>
    rw [Parser.phaseDone_prefix hp, hat.toNat_moduleIndex, ← hpre] at hmore
    obtain ⟨hT, hst⟩ := hat.takes_prefix hp hmore
    exact ⟨_, Parser.frameStep_data he (hat.used_lt hst hcap) (by rw [hp]; decide), ⟨before, g, after, _, rfl, hT⟩,
      P.takesWord_stored ..⟩
  | suffixPhase =>
    rw [Parser.phaseDone_suffix hp, hat.toNat_moduleIndex, ← hsuf] at hmore
    obtain ⟨hT, hst⟩ := hat.takes_suffix hp hmore
    exact ⟨_, Parser.frameStep_data he (hat.used_lt hst hcap) (by rw [hp]; decide), ⟨before, g, after, _, rfl, hT⟩,
      P.takesWord_stored ..⟩
  | dynamicPhase =>
    rw [Parser.phaseDone_dynamic hp] at hmore
    by_cases hb : P.blockF.left = 0
    · obtain ⟨ht, hT⟩ := hat.opens_block hp hb hmore
      exact ⟨_, Parser.frameStep_blockHeader hp hb he ht, ⟨before, g, after, _, rfl, hT⟩, ⟨⟨rfl, rfl, rfl, rfl⟩, rfl⟩⟩
    · obtain ⟨hT, hst⟩ := hat.takes_dynamic hp hb
      exact ⟨_, Parser.frameStep_dynData he (hat.used_lt hst hcap) hp hb, ⟨before, g, after, _, rfl, hT⟩,
        P.takesWord_stored ..⟩

/-- Where a word is needed, one is to come. -/
theorem Parser.Loads.ne_nil (h : P.Loads mods q) (hn : P.NeedsWord)
    (hfit : List.Forall₂ GenModule.Fits mods P.modules) : q ≠ [] := by
  rintro rfl
  obtain ⟨before, g, after, st, rfl, hat⟩ := h
  obtain ⟨mod, hmod, hmore⟩ := hn
  obtain ⟨hpre, hsuf, -⟩ := hat.fits hfit hmod
  cases hp : P.phase with
  | prefixPhase =>
    obtain ⟨rest, hrest, hsp, hq⟩ := hat.holdsPrefix hp
    rw [Parser.phaseDone_prefix hp, hat.toNat_moduleIndex, ← hpre, hsp, hrest] at hmore
    cases rest with
    | nil => exact hmore (by rw [List.append_nil])
    | cons => cases hq
  | suffixPhase =>
    obtain ⟨a, rest, hrest, -, hsp, hq⟩ := hat.holdsSuffix hp
    rw [Parser.phaseDone_suffix hp, hat.toNat_moduleIndex, ← hsuf, hsp, hrest] at hmore
    cases rest with
    | nil => exact hmore (by rw [List.append_nil])
    | cons => cases hq
  | dynamicPhase =>
    obtain ⟨a, c, d, q', -, -, -, hq, hleft, hfollows⟩ := hat.holdsDynamic hp
    rw [Parser.phaseDone_dynamic hp, blockFinished_iff] at hmore
    obtain ⟨rfl, rfl⟩ := List.append_eq_nil_iff.mp hq.symm
    have hzero : P.blockF.left = 0 := BitVec.eq_of_toNat_eq hleft
    rw [FollowsBlock, if_neg fun ⟨hh, hc⟩ => hmore ⟨hh, hzero, hc⟩] at hfollows
    cases hfollows

end

/-! ## Where the parser stands in the stream of a generated event (R361) -/

/-- Frames that hold words, as many as a header can count. -/
def FilledFrames (frames : List (List Word)) : Prop := ∀ f ∈ frames, f ≠ [] ∧ f.length < 2 ^ 13

theorem framed_cons (id : BitVec 7) (type : BitVec 8) (f : List Word) (fs : List (List Word)) :
    ∃ flags, framed id type (f :: fs) =
      packHeader type flags id (BitVec.ofNat 13 f.length) :: (f ++ framed id 0xF9#8 fs) := by
  cases fs with
  | nil => exact ⟨0, by rw [framed, framed, List.append_nil]⟩
  | cons => exact ⟨8, by rw [framed]⟩

section
variable (ev : BitVec 4) (k : BitVec 3) (mods : List GenModule)

/-- In Idle, the whole event is to come. -/
structure Parser.AtStart (P : Parser) (ws : List Word) : Prop where
  idle : P.eventIndex < 0
  block : P.blockF.left = 0
  emitted : P.emitted = []
  stream : ∃ f fs, ws = framed ((ev + 1) ++ k) 0xF3#8 (f :: fs) ∧ FilledFrames (f :: fs) ∧
    PayloadOf (mods.flatMap GenModule.items) (f ++ fs.flatten)

/-- In the event, with the rest `f` of a frame and further frames to come. -/
structure Parser.AtPayload (P : Parser) (ws : List Word) : Prop where
  event : P.eventIndex = ev.toNat
  emitted : P.emitted = []
  stack : stackNumOf P.stackF.hdr = ev + 1
  needs : P.NeedsWord
  stream : ∃ f fs, P.stackF.left.toNat = f.length ∧ ws = f ++ framed ((ev + 1) ++ k) 0xF9#8 fs ∧ FilledFrames fs ∧
    P.Loads mods (f ++ fs.flatten)

/-- In Idle, the event emitted. -/
structure Parser.AtEnd (P : Parser) (ws : List Word) : Prop where
  idle : P.eventIndex < 0
  emitted : P.emitted = [.eventData ev.toNat (mods.map GenModule.emission)]
  stream : ws = []

/-- The parser has read a generated event up to the words `ws`. -/
def Parser.Stands (rs : ReadoutStructure) (P : Parser) (ws : List Word) : Prop :=
  P.rs = rs ∧ (P.AtStart ev k mods ws ∨ P.AtPayload ev k mods ws ∨ P.AtEnd ev mods ws)

end

/-- `Q` is `P` after one word that raised nothing and was not skipped. -/
structure Parser.ReadsOn (P Q : Parser) : Prop where
  unit : Q.call.unit = P.call.unit
  rp : Q.call.rp = P.call.rp + 1
  callFirst : Q.call.callFirst = P.call.callFirst
  unitFirst : Q.call.unitFirst = P.call.unitFirst
  unitSkipped : Q.call.unitSkipped = P.call.unitSkipped

section
variable {p : Params} {rs : ReadoutStructure} {ev : BitVec 4} {k : BitVec 3} {mods : List GenModule}
  {P T : Parser} {ws : List Word} {w : Word} {f : List Word} {fs : List (List Word)}

/-- Calls, counters and buffer numbers do not matter to where the parser stands. -/
theorem Parser.Stands.between_calls (h : P.Stands ev k mods rs ws) (c : CallState) (ctr : ParserCounters) (n : BitVec 32)
    (b : Bool) : Parser.Stands ev k mods rs
      { P with call := c, counters := ctr, lastBufferNumber := n, bufSeqValid := b } ws := by
  obtain ⟨hrs, h | h | h⟩ := h
  · exact ⟨hrs, .inl ⟨h.idle, h.block, h.emitted, h.stream⟩⟩
  · obtain ⟨f, fs, hleft, hws, hfs, before, g, after, st, hmods, hat⟩ := h.stream
    exact ⟨hrs, .inr (.inl ⟨h.event, h.emitted, h.stack, h.needs, f, fs, hleft, hws, hfs, before, g, after, st, hmods,
      hat.moduleIndex, hat.modules, hat.used, hat.scratch, hat.part⟩)⟩
  · exact ⟨hrs, .inr (.inr ⟨h.idle, h.emitted, h.stream⟩)⟩

variable (hfit : List.Forall₂ GenModule.Fits mods (ReadoutStructure.row rs ev.toNat))
include hfit

/-- After a word of the event the parser stands before the next one, or has emitted the event. -/
theorem Parser.stands_settle (hrs : T.rs = rs) (he : T.eventIndex = ev.toNat) (hem : T.emitted = [])
    (hst : stackNumOf T.stackF.hdr = ev + 1) (hleft : T.stackF.left.toNat = f.length) (hfs : FilledFrames fs)
    (hl : T.Loads mods (f ++ fs.flatten)) :
    T.settle.Stands ev k mods rs (f ++ framed ((ev + 1) ++ k) 0xF9#8 fs) := by
  have hmods : T.modules = ReadoutStructure.row rs ev.toNat := by rw [Parser.modules, hrs, he]
  have hfit' : List.Forall₂ GenModule.Fits mods T.modules := hmods.symm ▸ hfit
  obtain ⟨mod, hmod⟩ := hl.currentModule hfit'
  rcases hl.settles (Parser.settles_settle_of_currentModule hmod) hfit' with ⟨hl, hn, hsame⟩ | ⟨hnil, hdone⟩
  · refine ⟨hsame.rs.trans hrs, .inr (.inl ⟨hsame.eventIndex.trans he, hsame.emitted.trans hem, ?_, hn, f, fs, ?_, rfl,
      hfs, hl⟩)⟩
    · rw [hsame.stackF, hst]
    · rw [hsame.stackF, hleft]
  · obtain ⟨hi, hr, hemit⟩ := hdone.emitted hfit'.length_eq
    obtain ⟨rfl, hflat⟩ := List.append_eq_nil_iff.mp hnil
    obtain rfl : fs = [] := by
      cases fs with
      | nil => rfl
      | cons f fs => exact absurd (List.append_eq_nil_iff.mp hflat).1 (hfs f List.mem_cons_self).1
    refine ⟨hr.trans hrs, .inr (.inr ⟨?_, ?_, rfl⟩)⟩
    · rw [hi]
      decide
    · rw [hemit, hem, he]
      rfl

/-- A payload word (R248). -/
theorem Parser.stands_payload (hcap : (mods.flatMap GenModule.data).length ≤ p.scratchWords) (hrs : P.rs = rs)
    (h : P.AtPayload ev k mods (w :: ws)) (hleft : P.stackF.left ≠ 0) (hw : P.call.unit[P.call.rp]? = some w) :
    (P.iteration p w).Stands ev k mods rs ws ∧ P.ReadsOn (P.iteration p w) := by
  obtain ⟨f, fs, hlen, hws, hfs, hl⟩ := h.stream
  obtain _ | ⟨x, f⟩ := f
  · exact absurd (BitVec.eq_of_toNat_eq hlen) hleft
  rw [List.cons_append, List.cons.injEq] at hws
  obtain ⟨rfl, rfl⟩ := hws
  have he : 0 ≤ P.clearRaised.eventIndex := by
    change 0 ≤ P.eventIndex
    rw [h.event]
    omega
  have hl' : P.clearRaised.Loads mods (w :: (f ++ fs.flatten)) := by
    obtain ⟨before, g, after, st, hm, hat⟩ := hl
    exact ⟨before, g, after, st, hm, hat.moduleIndex, hat.modules, hat.used, hat.scratch, hat.part⟩
  have hfit' : List.Forall₂ GenModule.Fits mods P.clearRaised.modules := by
    change List.Forall₂ GenModule.Fits mods (ReadoutStructure.row P.rs P.eventIndex)
    rwa [hrs, h.event]
  obtain ⟨T, hT, hTl, hevent, hcall⟩ := hl'.frameStep h.needs hfit' he hcap
  have hstep : P.iteration p w = T.settle := by
    rw [P.iteration_eq_dispatch p w hw, Parser.dispatch, if_neg (not_lt.mpr he),
      if_neg (show P.clearRaised.stackF.left ≠ 0 from hleft), hT]
  rw [hstep]
  refine ⟨Parser.stands_settle hfit (hevent.rs.trans hrs) (hevent.eventIndex.trans h.event)
    (hevent.emitted.trans h.emitted) ?_ ?_ hfs hTl, ?_⟩
  · rw [hevent.stackF]
    exact h.stack
  · rw [hevent.stackF]
    change (P.stackF.left - 1).toNat = f.length
    rw [List.length_cons] at hlen
    bv_omega
  · constructor <;> rw [Parser.settle_call, hcall] <;> rfl

omit hfit in
/-- The header of a further frame (R254). -/
theorem Parser.stands_continuation (hrs : P.rs = rs) (h : P.AtPayload ev k mods (w :: ws)) (hleft : P.stackF.left = 0)
    (hw : P.call.unit[P.call.rp]? = some w) :
    (P.iteration p w).Stands ev k mods rs ws ∧ P.ReadsOn (P.iteration p w) := by
  obtain ⟨f, fs, hlen, hws, hfs, hl⟩ := h.stream
  obtain rfl : f = [] := List.eq_nil_of_length_eq_zero (by rw [← hlen, hleft]; rfl)
  obtain _ | ⟨f, fs⟩ := fs
  · cases hws
  obtain ⟨hne, hshort⟩ := hfs f List.mem_cons_self
  obtain ⟨flags, hframed⟩ := framed_cons ((ev + 1) ++ k) 0xF9#8 f fs
  rw [List.nil_append, hframed, List.cons.injEq] at hws
  obtain ⟨rfl, rfl⟩ := hws
  have he : ¬ P.clearRaised.eventIndex < 0 := by
    change ¬ P.eventIndex < 0
    rw [h.event]
    omega
  rw [P.iteration_eq_dispatch p _ hw, Parser.dispatch, if_neg he,
    if_pos (show P.clearRaised.stackF.left = 0 from hleft), Parser.awaitStep_cont,
    if_pos (show ev + 1 = stackNumOf P.clearRaised.stackF.hdr from h.stack.symm)]
  refine ⟨⟨hrs, .inr (.inl ⟨h.event, h.emitted, stackNumOf_packHeader .., h.needs, f, fs, ?_, rfl,
    fun x hx => hfs x (List.mem_cons_of_mem _ hx), ?_⟩)⟩, ⟨rfl, rfl, rfl, rfl, rfl⟩⟩
  · change (BitVec.ofNat 13 f.length).toNat = f.length
    rw [BitVec.toNat_ofNat, Nat.mod_eq_of_lt hshort]
  · obtain ⟨before, g, after, st, hm, hat⟩ := hl
    exact ⟨before, g, after, st, hm, hat.moduleIndex, hat.modules, hat.used, hat.scratch, hat.part⟩

variable (hp : p.legal = true) (hin : ev.toNat < rs.length) (hev : ev.toNat ≤ 14) (hne : mods ≠ [])
include hp hin hev hne

/-- The header of the first frame starts the event (R242, R245). -/
theorem Parser.stands_start (hrs : P.rs = rs) (h : P.AtStart ev k mods (w :: ws))
    (hw : P.call.unit[P.call.rp]? = some w) :
    (P.iteration p w).Stands ev k mods rs ws ∧ P.ReadsOn (P.iteration p w) := by
  obtain ⟨f, fs, hws, hfs, hpay⟩ := h.stream
  obtain ⟨hfne, hshort⟩ := hfs f List.mem_cons_self
  obtain ⟨flags, hframed⟩ := framed_cons ((ev + 1) ++ k) 0xF3#8 f fs
  rw [hframed, List.cons.injEq] at hws
  obtain ⟨rfl, rfl⟩ := hws
  have hnum : (ev + 1).toNat = ev.toNat + 1 := by bv_omega
  have hlen : (BitVec.ofNat 13 f.length).toNat = f.length := by rw [BitVec.toNat_ofNat, Nat.mod_eq_of_lt hshort]
  have hlen0 : BitVec.ofNat 13 f.length ≠ 0 := by
    intro h0
    rw [h0] at hlen
    exact hfne (List.eq_nil_of_length_eq_zero hlen.symm)
  have hindex : ((ev + 1).toNat : Int) - 1 = ev.toNat := by omega
  have hrange : ¬ (ev + 1 = 0 ∨ P.clearRaised.rs.length < (ev + 1).toNat) := by
    rw [show P.clearRaised.rs = rs from hrs]
    rintro (h0 | hlt)
    · rw [h0] at hnum
      cases hnum
    · omega
  have hrow : ReadoutStructure.row P.clearRaised.rs (((ev + 1).toNat : Int) - 1) ≠ [] := by
    rw [show P.clearRaised.rs = rs from hrs, hindex]
    intro h0
    rw [h0] at hfit
    cases hfit
    exact hne rfl
  rw [P.iteration_eq_dispatch p _ hw, Parser.dispatch, if_pos (show P.clearRaised.eventIndex < 0 from h.idle),
    Parser.idleStep, typeOf_packHeader, frameKind_stack hp]
  dsimp only
  rw [Parser.idleStackFrame_packHeader, if_neg hlen0, if_neg hrange, if_neg hrow,
    if_neg (show ¬ P.clearRaised.blockF.left ≠ 0 from not_not.mpr h.block), Parser.startEvent_eq, hindex,
    lengthOf_packHeader]
  obtain ⟨g, after, rfl⟩ := List.exists_cons_of_ne_nil hne
  refine ⟨Parser.stands_settle hfit hrs rfl h.emitted (stackNumOf_packHeader ..) hlen
    (fun x hx => hfs x (List.mem_cons_of_mem _ hx)) ⟨[], g, after, [], rfl, ?_⟩, ?_⟩
  · exact Parser.loadsAt_entered (before := []) (fun j g hj => by simp at hj) rfl (fun i w hi => by simp at hi) hpay
  · constructor <;> rw [Parser.settle_call] <;> rfl

/-- Every word of the event is read (R361). -/
theorem Parser.Stands.iteration (hcap : (mods.flatMap GenModule.data).length ≤ p.scratchWords)
    (h : P.Stands ev k mods rs (w :: ws)) (hw : P.call.unit[P.call.rp]? = some w) :
    (P.iteration p w).Stands ev k mods rs ws ∧ P.ReadsOn (P.iteration p w) := by
  obtain ⟨hrs, h | h | h⟩ := h
  · exact Parser.stands_start hfit hp hin hev hne hrs h hw
  · by_cases hleft : P.stackF.left = 0
    · exact Parser.stands_continuation hrs h hleft hw
    · exact Parser.stands_payload hfit hcap hrs h hleft hw
  · cases h.stream

end

end Sys2Proof.Machine

/-! # A generated event cut into buffers (O23) -/

namespace Sys2Proof.Machine

/-- `Q` is `P` after words that raised nothing and were not skipped. -/
structure Parser.KeepsMarks (P Q : Parser) : Prop where
  callFirst : Q.call.callFirst = P.call.callFirst
  unitFirst : Q.call.unitFirst = P.call.unitFirst
  unitSkipped : Q.call.unitSkipped = P.call.unitSkipped

/-- A unit in which nothing was raised or skipped is counted under the state it leaves (R189). -/
theorem Parser.unitOutcome_of_unskipped {P : Parser} (hf : P.call.unitFirst = none) (hs : P.call.unitSkipped = false) :
    P.unitOutcome = P.bumpResult (if P.eventIndex < 0 then .ok else .needMoreInput) := by
  unfold Parser.unitOutcome
  rw [hf, hs, if_neg (by decide), if_neg (by simp)]
  by_cases he : P.eventIndex < 0
  · rw [if_neg (not_le.mpr he), if_pos he]
  · rw [if_pos (not_lt.mp he), if_neg he]

/-- An event, the table it is for and the parameters, as R361 puts them together. -/
structure FitsTable (p : Params) (rs : ReadoutStructure) (ev : BitVec 4) (mods : List GenModule) : Prop where
  legal : p.legal = true
  inTable : ev.toNat < rs.length
  event : ev.toNat ≤ 14
  fits : List.Forall₂ GenModule.Fits mods (ReadoutStructure.row rs ev.toNat)
  nonempty : mods ≠ []
  capacity : (mods.flatMap GenModule.data).length ≤ p.scratchWords

section
variable {p : Params} {rs : ReadoutStructure} {ev : BitVec 4} {k : BitVec 3} {mods : List GenModule}
  (ht : FitsTable p rs ev mods)
include ht

/-- The words of a unit that belong to the event are read to the unit's end (R361). -/
theorem Parser.Stands.walks {P : Parser} {rest : List Word} (h : P.Stands ev k mods rs (P.ahead ++ rest)) :
    ∃ Q, Walks p P Q ∧ Q.Stands ev k mods rs rest ∧ P.KeepsMarks Q := by
  induction ha : P.ahead generalizing P with
  | nil =>
    rw [ha, List.nil_append] at h
    exact ⟨P, .done (List.getElem?_eq_none (List.drop_eq_nil_iff.mp ha)), h, rfl, rfl, rfl⟩
  | cons w tl ih =>
    rw [ha, List.cons_append] at h
    have hw : P.call.unit[P.call.rp]? = some w := by
      rw [← Nat.add_zero P.call.rp, ← List.getElem?_drop]
      exact congrArg (·[0]?) ha
    obtain ⟨hstands, hreads⟩ := h.iteration ht.fits ht.legal ht.inTable ht.event ht.nonempty ht.capacity hw
    have hahead : (P.iteration p w).ahead = tl := by
      rw [Parser.ahead, hreads.unit, hreads.rp, ← List.drop_drop, ← Parser.ahead, ha]
      rfl
    obtain ⟨Q, hwalk, hQ, hmarks⟩ := ih (by rwa [hahead]) hahead
    exact ⟨Q, .word hw hwalk, hQ, hmarks.callFirst.trans hreads.callFirst, hmarks.unitFirst.trans hreads.unitFirst,
      hmarks.unitSkipped.trans hreads.unitSkipped⟩

/-- A buffer of the event, fed in order (R265). -/
theorem State.feeds_buffer {s : State} {n : BitVec 32} {W rest : List Word} (hpar : s.params = p)
    (hs : s.parser.session = true) (hc : s.parser.callOpen = false)
    (hnext : s.parser.bufSeqValid = false ∨ n = s.parser.lastBufferNumber + 1)
    (h : s.parser.Stands ev k mods rs (W ++ rest)) :
    ∃ t, exec (.parseUsbBuffer n W) s = .next t ∧ t.parser.Stands ev k mods rs rest ∧
      t.result = .outcome (if t.parser.eventIndex < 0 then .ok else .needMoreInput) := by
  obtain ⟨P, hopen⟩ : ∃ P, (s.parser.enterCall n W).openUnit W 0 = P := ⟨_, rfl⟩
  have hP : P.Stands ev k mods rs (P.ahead ++ rest) ∧ P.call.rp = 0 ∧ P.call.callFirst = none ∧
      P.call.unitFirst = none ∧ P.call.unitSkipped = false := by
    rw [← hopen, Parser.enterCall_of_next W hnext]
    exact ⟨h.between_calls _ _ _ _, rfl, rfl, rfl, rfl⟩
  obtain ⟨hstands, hrp, hcall, hfirst, hskip⟩ := hP
  obtain ⟨Q, hwalk, hQ, hmarks⟩ := hstands.walks ht
  have hexec : exec (.parseUsbBuffer n W) s = .next (s.returnCall (s.parser.parseUsb s.params n W)) :=
    State.inSession_of_closed _ hc hs
  have hrun : P.runUnit p = Q := hwalk.eq_runUnit (hrp ▸ Nat.zero_le _)
  have hparse : s.parser.parseUsb s.params n W = Q.bumpResult (if Q.eventIndex < 0 then .ok else .needMoreInput) := by
    rw [Parser.parseUsb, Parser.processUnit, hpar, hopen, hrun,
      Parser.unitOutcome_of_unskipped (hmarks.unitFirst.trans hfirst) (hmarks.unitSkipped.trans hskip)]
  refine ⟨_, hexec, ?_, ?_⟩
  · rw [hparse]
    exact hQ.between_calls _ _ _ _
  · rw [hparse]
    exact congrArg OpResult.outcome (Parser.callOutcome_of_none (hmarks.callFirst.trans hcall))

/-- With the whole event read, it is emitted (R361). -/
theorem Parser.Stands.emitted {P : Parser} (h : P.Stands ev k mods rs []) :
    P.eventIndex < 0 ∧ P.emitted = [.eventData ev.toNat (mods.map GenModule.emission)] := by
  obtain ⟨hrs, h | h | h⟩ := h
  · obtain ⟨f, fs, hws, -⟩ := h.stream
    obtain ⟨flags, hframed⟩ := framed_cons ((ev + 1) ++ k) 0xF3#8 f fs
    rw [hframed] at hws
    cases hws
  · obtain ⟨f, fs, -, hws, -, hl⟩ := h.stream
    obtain ⟨rfl, hfs⟩ := List.append_eq_nil_iff.mp hws.symm
    obtain _ | ⟨f, fs⟩ := fs
    · refine absurd rfl (hl.ne_nil h.needs ?_)
      rw [Parser.modules, hrs, h.event]
      exact ht.fits
    · obtain ⟨flags, hframed⟩ := framed_cons ((ev + 1) ++ k) 0xF9#8 f fs
      rw [hframed] at hfs
      cases hfs
  · exact ⟨h.idle, h.emitted⟩

/-- The buffers of the event, fed in order (R265, R361). -/
theorem State.feeds_buffers (buffers : List (List Word)) {s : State} {n : BitVec 32} (hpar : s.params = p)
    (hs : s.parser.session = true) (hc : s.parser.callOpen = false)
    (hnext : s.parser.bufSeqValid = false ∨ n = s.parser.lastBufferNumber + 1)
    (h : s.parser.Stands ev k mods rs buffers.flatten) :
    ∃ t, feedBuffers n buffers s = some t ∧ t.parser.Stands ev k mods rs [] ∧
      (buffers ≠ [] → t.result = .outcome .ok) := by
  induction buffers generalizing s n with
  | nil => exact ⟨s, rfl, h, fun hne => absurd rfl hne⟩
  | cons W Ws ih =>
    obtain ⟨t, hexec, hstands, hresult⟩ := State.feeds_buffer ht hpar hs hc hnext h
    obtain ⟨t', o, hexec', ht', -, -, -, hsession, -, hidle, hlast, -⟩ :=
      parseCallsComplete s n W _ (.inl rfl) hs hc
    obtain rfl : t' = t := by
      rw [hexec'] at hexec
      cases hexec
      rfl
    have hpar' : t'.params = p := by rw [ht', hpar]
    have hclosed : t'.parser.callOpen = false := by rw [Parser.callOpen, hidle]; rfl
    obtain ⟨u, hfeed, hu, hok⟩ := ih hpar' hsession hclosed (.inr (by rw [hlast])) hstands
    refine ⟨u, by rw [feedBuffers, hexec]; exact hfeed, hu, fun _ => ?_⟩
    cases Ws with
    | nil =>
      obtain rfl : t' = u := Option.some.inj hfeed
      rw [hresult, if_pos (hu.emitted ht).1]
    | cons W' Ws => exact hok (List.cons_ne_nil _ _)

end

/-- A fresh session stands before a generated event (R450, R361). -/
theorem Parser.stands_afterReset (b : Bool) (rs : ReadoutStructure) {ev : BitVec 4} (k : BitVec 3) {mods : List GenModule}
    {m : BitVec 13} (hm : 2 ≤ m.toNat) (hne : mods.flatMap GenModule.items ≠ []) :
    (Parser.afterReset b rs).Stands ev k mods rs (generateEvent ev.toNat k mods m.toNat) := by
  obtain ⟨frames, hwords, hpacks, hbound, hsome⟩ := generateEvent_frames ev k mods hm
  obtain ⟨f, fs, rfl⟩ := List.exists_cons_of_ne_nil hsome
  obtain ⟨q, hq, hpay⟩ := payloadOf_of_packs m.isLt hpacks
  have hfilled : FilledFrames (f :: fs) := fun x hx =>
    ⟨ne_nil_of_packs hm hpacks (.inr hne) x hx, lt_of_le_of_lt (hbound x hx) m.isLt⟩
  rw [List.flatten_cons, List.nil_append] at hq
  exact ⟨rfl, .inl ⟨show (-1 : Int) < 0 by decide, rfl, rfl, f, fs, hwords, hfilled, hq ▸ hpay⟩⟩

/-- A module that has a word or a dynamic part has an item (R360). -/
theorem items_ne_nil {g : GenModule} (h : g.data ≠ [] ∨ g.dynamicWords ≠ none) : g.items ≠ [] := by
  intro hnil
  simp only [GenModule.items, List.append_eq_nil_iff, List.map_eq_nil_iff, Option.toList_eq_nil_iff,
    Option.map_eq_none_iff] at hnil
  obtain ⟨⟨hpre, hdyn⟩, hsuf⟩ := hnil
  rcases h with h | h
  · exact h (by rw [GenModule.data, hpre, hdyn, hsuf]; rfl)
  · exact h hdyn

/-- Settles O23. -/
theorem generatedEventsRoundTrip : Obligations.GeneratedEventsRoundTrip := by
  intro s rs ev k shapes mods m n ws buffers hp hc hrs hrow hfits hm hcap ⟨g, hg, hitems⟩ hgen hflat
  have hin : ev.toNat < rs.length := (List.getElem?_eq_some_iff.mp hrow).1
  have hlen : rs.length ≤ 15 := by
    rw [ReadoutStructure.legal, Bool.and_eq_true] at hrs
    exact of_decide_eq_true hrs.1
  have hev : ev.toNat ≤ 14 := by omega
  have htable : FitsTable s.params rs ev mods :=
    ⟨hp, hin, hev, by rwa [ReadoutStructure.row_of_getElem? hrow], List.ne_nil_of_mem hg, hcap⟩
  have hne : mods.flatMap GenModule.items ≠ [] := fun h => items_ne_nil hitems (List.flatMap_eq_nil_iff.mp h g hg)
  rw [exec_generateEvent s k mods hev hm] at hgen
  obtain rfl : generateEvent ev.toNat k mods m.toNat = ws := by
    injection hgen with hgen
    injection congrArg State.result hgen
  have hstands := Parser.stands_afterReset (ev := ev) true rs k hm hne
  rw [← hflat] at hstands
  obtain ⟨t, hfeed, ht, hok⟩ := State.feeds_buffers htable buffers (n := n)
    (s := { s with
      parser := Parser.afterReset true rs
      otherSessions := if s.parser.session then s.parser :: s.otherSessions else s.otherSessions })
    rfl rfl rfl (.inl rfl) hstands
  refine ⟨_, t, exec_sessionReset hc hrs, hfeed, hok ?_, (ht.emitted htable).2⟩
  rintro rfl
  exact List.cons_ne_nil _ _ (hstands.emitted htable).2.symm

end Sys2Proof.Machine
